-- ==== Sys2Proof/Word.lean ====
section
/-! DEFINITION. The word types of the block: bytes (00_scope R8), sixteen-bit values and command words (30_encoding R99). -/

namespace Sys2Proof

/-- One byte of host memory, of a frame or of an accumulation buffer. -/
abbrev Byte := BitVec 8

/-- A sixteen-bit value: `imm16`, `vlen` (VLEN_W = 16), and the value an `FC.RD` returns. -/
abbrev Half := BitVec 16

/-- A command word `cw` (30_encoding R99). -/
abbrev CmdWord := BitVec 32

end Sys2Proof
end

