-- ==== Sys2Proof/Machine/Flags.lean ====
section
/-! DEFINITION. The flag byte of a frame (30_encoding R95) and its sub-fields. The block itself has no condition
codes and no status flags (10_state R32). -/

namespace Sys2Proof.Machine

/-- `IS_ACK`, bit 7 of the flag byte (40_codec R138). -/
def flagIsAck (b : Byte) : Half := (b.extractLsb' 7 1).setWidth 16

/-- `NEED_ACK`, bit 5 of the flag byte (40_codec R139). -/
def flagNeedAck (b : Byte) : Half := (b.extractLsb' 5 1).setWidth 16

/-- `ENC`, bits 2:0 of the flag byte, raw (40_codec R140). -/
def flagEnc (b : Byte) : Half := (b &&& 0x07#8).setWidth 16

/-- The flag byte with `IS_ACK` written, every other bit kept (40_codec R151). -/
def setFlagIsAck (old : Byte) (v : Half) : Byte := (old &&& 0x7F#8) ||| ((v.extractLsb' 0 1).setWidth 8 <<< 7)

/-- The flag byte with `NEED_ACK` written, every other bit kept (40_codec R152). -/
def setFlagNeedAck (old : Byte) (v : Half) : Byte := (old &&& 0xDF#8) ||| ((v.extractLsb' 0 1).setWidth 8 <<< 5)

/-- The flag byte with `ENC` written, every other bit kept (40_codec R153). -/
def setFlagEnc (old : Byte) (v : Half) : Byte := (old &&& 0xF8#8) ||| (v.extractLsb' 0 3).setWidth 8

end Sys2Proof.Machine
end

