-- ==== Sys2Proof/Machine/Format.lean ====
section
/-! DEFINITION. The wire frame (00_scope R5, 30_encoding R90 to R96): its constants, and the assembly of its
multi-byte fields. -/

namespace Sys2Proof.Machine

/-- The block's identification string (00_scope R1). No operation reads it. -/
def blockIdentification : String := "FSR-robomaster-s1-proto-v7"

/-- `MARKER` (00_scope R5). -/
def marker : Byte := 0x55#8

/-- `HDR_LEN`: the payload starts at this offset (00_scope R5). -/
def hdrLen : Nat := 11

/-- `CRC_LEN`: bytes of the trailing checksum (00_scope R5). -/
def crcLen : Nat := 2

/-- `MIN_FRAME`: a frame with an empty payload (00_scope R5). -/
def minFrame : Nat := 13

/-- `LEN_W`: bits of the length field (00_scope R5). -/
def lenW : Nat := 10

/-- `MAX_LEN`: the largest declared length (00_scope R5). -/
def maxLen : Nat := 1023

/-- `MAX_PAYLOAD` (00_scope R5). -/
def maxPayload : Nat := 1010

/-- `PROBE`: bytes from the marker on that the scanner needs before it looks at the header (00_scope R5). -/
def probe : Nat := 4

/-- `RESYNC`: bytes dropped from the marker on after a checksum failure (00_scope R5, 90_conflicts C2). -/
def resync : Nat := 3

/-- `SEED8` (00_scope R5). -/
def seed8 : BitVec 8 := 0x77#8

/-- `SEED16` (00_scope R5). -/
def seed16 : BitVec 16 := 0x3692#16

/-- `VLEN_W`: width of a view length operand (00_scope R6). -/
def vlenW : Nat := 16

/-- `LE16(lo, hi)` (00_scope R8). -/
def le16 (lo hi : Byte) : Half := lo.setWidth 16 ||| (hi.setWidth 16 <<< 8)

/-- The low byte of a sixteen-bit value, `v[7:0]`. -/
def loByte (v : Half) : Byte := v.extractLsb' 0 8

/-- The high byte of a sixteen-bit value, `v[15:8]`. -/
def hiByte (v : Half) : Byte := v.extractLsb' 8 8

/-- The length field: byte 1 and the low two bits of byte 2 (30_encoding R92). -/
def lenField (b1 b2 : Byte) : Half := b1.setWidth 16 ||| ((b2 &&& 0x03#8).setWidth 16 <<< 8)

/-- Byte 2 after a write of the length `v`: its bits 7:2 are kept (40_codec R145). -/
def lenByte2 (old2 : Byte) (v : Half) : Byte := (old2 &&& 0xFC#8) ||| (v.extractLsb' 8 2).setWidth 8

/-- Byte `i` of a sequence, counting from 0 (00_scope R8); 0 past the end, where no rule reads. -/
def byteAt (t : List Byte) (i : Nat) : Byte := t.getD i 0

/-- `t[i..j)` (00_scope R8). -/
def slice (t : List Byte) (i j : Nat) : List Byte := (t.drop i).take (j - i)

/-- The length declared by the frame that starts at offset `off` of a sequence (30_encoding R92). -/
def declaredLen (t : List Byte) (off : Nat) : Nat := (lenField (byteAt t (off + 1)) (byteAt t (off + 2))).toNat

end Sys2Proof.Machine
end

