-- ==== Sys2Proof/Config.lean ====
section
/-! DEFINITION. What an implementation fixes: the parameters of 00_scope R6, and the free values of the model. -/

namespace Sys2Proof

/-- Which checksum functions the block was built with (00_scope R6, 41_scanner R180, R181).
`recommended` is the instance of 41_scanner R186 and R187; `other n` is member `n` of a family of which only the
required vectors of R184 are known, so a claim about every choice holds for every pair that meets them (log 3). -/
inductive CkChoice where
  | recommended
  | other (n : Nat)
deriving DecidableEq, Repr

/-- Free value: the 8-bit checksum of a block not built with the recommended instance, on every input but the required
vectors (41_scanner R180, R184). Log 3. -/
opaque Config.otherCk8 : Nat → BitVec 8 → List Byte → BitVec 8

/-- Free value: the 16-bit checksum of a block not built with the recommended instance, on every input but the required
vectors (41_scanner R181, R184). Log 3. -/
opaque Config.otherCk16 : Nat → BitVec 16 → List Byte → BitVec 16

/-- Free value: what the 16-bit `consumed` field of a trace entry holds when the count does not fit
(30_encoding R103 gives the width VLEN_W and no rule for such a count). Log 10. -/
opaque Config.wideConsumed : Nat → BitVec 16

/-- Free value: what an ADDR_W-bit or CHAN_ID_W-bit field of the request port holds when the number the host's script
gives for it does not fit (30_encoding R98 gives the width and no rule for such a number). Log 19. -/
opaque Config.wideOperand : Nat → Nat

/-- The parameters the source leaves open (00_scope R6). Fixed when the block is built; a model takes them as
arguments of its step relation (10_state R39), which is why the state carries them. Log 1. -/
structure Params where
  /-- `ADDR_W`: width in bits of a host-memory byte address. -/
  addrW : Nat
  /-- `CHAN_ID_W`: width in bits of a channel identifier. -/
  chanIdW : Nat
  /-- `FRAG_MAX`: largest fragment one push may carry, in bytes. -/
  fragMax : Nat
  /-- `ACC_CAP`: capacity of one channel's accumulation buffer, in bytes. -/
  accCap : Nat
  /-- `CK8` and `CK16`. -/
  ck : CkChoice
deriving DecidableEq, Repr

/-- The values the spec suggests (00_scope R6; 95_test_vectors uses exactly these). DESIGN CHOICE, log 2. -/
def Params.suggested : Params where
  addrW := 32
  chanIdW := 11
  fragMax := 64
  accCap := 1086
  ck := .recommended

end Sys2Proof
end

