-- ==== Sys2Proof/Machine/Memory.lean ====
section
/-! DEFINITION. Sparse tables by a natural-number key in one canonical form, and host memory as such a table
(20_memory R60 to R64). -/

namespace Sys2Proof.Machine

/-- What a sparse table with default `d` holds under key `a`: its first entry for `a`, else `d`. -/
def sparseGet {α : Type} (d : α) : List (Nat × α) → Nat → α
  | [], _ => d
  | (k, v) :: m, a => if k = a then v else sparseGet d m a

/-- The table without any entry for key `a`. -/
def sparseErase {α : Type} (m : List (Nat × α)) (a : Nat) : List (Nat × α) := m.filter fun e => e.1 ≠ a

/-- The entry `(a, v)` put before the first greater key. -/
def sparseInsert {α : Type} (a : Nat) (v : α) : List (Nat × α) → List (Nat × α)
  | [] => [(a, v)]
  | (k, w) :: m => if a < k then (a, v) :: (k, w) :: m else (k, w) :: sparseInsert a v m

/-- The table with key `a` holding `v`; holding the default means being unlisted. -/
def sparseSet {α : Type} [DecidableEq α] (d : α) (m : List (Nat × α)) (a : Nat) (v : α) : List (Nat × α) :=
  if v = d then sparseErase m a else sparseInsert a v (sparseErase m a)

/-- The canonical form: keys strictly rising, and no entry equal to the default. -/
abbrev sparseWf {α : Type} (d : α) (m : List (Nat × α)) : Prop :=
  m.Pairwise (fun x y => x.1 < y.1) ∧ ∀ e ∈ m, e.2 ≠ d

/-- Host memory HM: the cells that do not hold `memDefault`, by byte address. -/
abbrev Memory := List Host.Cell

/-- What an unlisted address reads as. DESIGN CHOICE: the spec gives host memory no reset contents (log 4). -/
def memDefault : Byte := 0x00#8

/-- `MemRead(addr, 1)` (00_scope R8, 20_memory R60): no side effect (R63). -/
def Memory.read (m : Memory) (a : Nat) : Byte := sparseGet memDefault m a

/-- `MemWrite(addr, 1, v)` (00_scope R8, 20_memory R60). -/
def Memory.write (m : Memory) (a : Nat) (v : Byte) : Memory := sparseSet memDefault m a v

/-- Bytes written one after another from address `a` up. -/
def Memory.writeBytes (m : Memory) (a : Nat) : List Byte → Memory
  | [] => m
  | b :: bs => Memory.writeBytes (Memory.write m a b) (a + 1) bs

/-- The canonical form of host memory. -/
abbrev Memory.wf (m : Memory) : Prop := sparseWf memDefault m

end Sys2Proof.Machine
end

