-- ==== Sys2Proof/Machine/Response.lean ====
section
/-! DEFINITION. The response record (30_encoding R102 to R105, 60_exceptions R270). -/

namespace Sys2Proof.Machine

/-- The status codes of 60_exceptions R270. Codes 6 to 15 are never produced, so they have no constructor. -/
inductive Status where
  /-- the operation completed -/
  | ok
  /-- reserved or illegal command word (R272) -/
  | errOp
  /-- illegal view, or a failed range condition (R274) -/
  | errRange
  /-- an `FC.WR` value wider than its field (R273) -/
  | errValue
  /-- a fragment of more than FRAG_MAX bytes (R275) -/
  | errFrag
  /-- a push past ACC_CAP (R276) -/
  | errOverflow
deriving DecidableEq, Repr

/-- The 4-bit code of a status (60_exceptions R270). -/
def Status.code : Status → BitVec 4
  | .ok => 0
  | .errOp => 1
  | .errRange => 2
  | .errValue => 3
  | .errFrag => 4
  | .errOverflow => 5

/-- The kinds of a scan outcome (30_encoding R103). Codes 5 to 7 are never produced. -/
inductive ScanKind where
  | ok
  | noSof
  | needMore
  | badHcrc
  | badPcrc
deriving DecidableEq, Repr

/-- The 3-bit code of a scan kind (30_encoding R103). -/
def ScanKind.code : ScanKind → BitVec 3
  | .ok => 0
  | .noSof => 1
  | .needMore => 2
  | .badHcrc => 3
  | .badPcrc => 4

/-- A scan outcome record without `frame_addr` (30_encoding R103, R104). -/
structure ScanRecord where
  kind : ScanKind
  missing : Nat
  consumed : Nat
  frameLen : Nat
deriving DecidableEq, Repr

/-- A frame a push delivers: a copy of its bytes, with its channel (30_encoding R104, 42_reassembler R231). -/
structure Frame where
  chan : Nat
  len : Nat
  bytes : List Byte
deriving DecidableEq, Repr

/-- The payload of a response, by operation (30_encoding R102). -/
inductive Payload where
  /-- `FC.WR`, `FC.FINH`, `FC.FINP`, `RA.FLUSH`, `BLK.RESET`, and every fault (60_exceptions R271) -/
  | empty
  /-- `FC.RD`: the field, zero-extended to 16 bits -/
  | value (v : Half)
  /-- `FC.VALID` -/
  | valid (b : Bool)
  /-- `FC.PAYLOAD`: `addr` and `len` -/
  | span (addr len : Nat)
  /-- `SCAN`: the outcome record and `frame_addr` -/
  | scan (r : ScanRecord) (frameAddr : Nat)
  /-- `RA.PUSH`: the frames and the trace (30_encoding R104) -/
  | push (frames : List Frame) (trace : List ScanRecord)
  /-- `RA.STATUS` (30_encoding R105) -/
  | status (bufLen : Nat) (hintValid : Bool) (hint : Nat)
deriving DecidableEq, Repr

/-- The response record `{status, payload}` (30_encoding R102). -/
structure Response where
  status : Status
  payload : Payload
deriving DecidableEq, Repr

/-- Whether a scan record fits the field widths of 30_encoding R103. -/
def ScanRecord.fits (r : ScanRecord) : Bool :=
  decide (r.missing < 2 ^ 10) && decide (r.consumed < 2 ^ 16) && decide (r.frameLen < 2 ^ 10)

/-- Whether a payload fits the field widths of 30_encoding R102 to R105; `Nat.clog 2 (ACC_CAP + 1)` is the width
of `buf_len`. -/
def Payload.fits (p : Params) : Payload → Bool
  | .empty => true
  | .value _ => true
  | .valid _ => true
  | .span addr len => decide (addr < 2 ^ p.addrW) && decide (len < 2 ^ 10)
  | .scan r frameAddr => r.fits && decide (frameAddr < 2 ^ p.addrW)
  | .push frames trace =>
    frames.all (fun f => decide (f.chan < 2 ^ p.chanIdW) && decide (f.len = f.bytes.length)) && trace.all ScanRecord.fits
  | .status bufLen _ hint => decide (bufLen < 2 ^ Nat.clog 2 (p.accCap + 1)) && decide (hint < 2 ^ 10)

end Sys2Proof.Machine
end

