-- ==== Sys2Proof/Syntax.lean ====
section
/-! DEFINITION. The operations of the block, one constructor per row of spec/opcode_table.json, and the request
record that carries one (30_encoding R98). -/

namespace Sys2Proof

/-- One operation with the operand fields it uses (30_encoding R100, last columns).
`base` and `vlen` name the view `(base, n)` (20_memory R61); `v` is the `imm16` an `FC.WR` writes; `chan` is a
channel identifier; `k` is the fragment length of an `RA.PUSH` and `data` the data bytes listed for it. -/
inductive Instr where
  /-- `FC.RD SOF` (40_codec R131). -/
  | fcRdSof (base : Nat) (vlen : Half)
  /-- `FC.RD LEN` (40_codec R132). -/
  | fcRdLen (base : Nat) (vlen : Half)
  /-- `FC.RD HCRC` (40_codec R133). -/
  | fcRdHcrc (base : Nat) (vlen : Half)
  /-- `FC.RD SENDER` (40_codec R134). -/
  | fcRdSender (base : Nat) (vlen : Half)
  /-- `FC.RD RECEIVER` (40_codec R135). -/
  | fcRdReceiver (base : Nat) (vlen : Half)
  /-- `FC.RD SEQ` (40_codec R136). -/
  | fcRdSeq (base : Nat) (vlen : Half)
  /-- `FC.RD FLAGS` (40_codec R137). -/
  | fcRdFlags (base : Nat) (vlen : Half)
  /-- `FC.RD IS_ACK` (40_codec R138). -/
  | fcRdIsAck (base : Nat) (vlen : Half)
  /-- `FC.RD NEED_ACK` (40_codec R139). -/
  | fcRdNeedAck (base : Nat) (vlen : Half)
  /-- `FC.RD ENC` (40_codec R140). -/
  | fcRdEnc (base : Nat) (vlen : Half)
  /-- `FC.RD CMDSET` (40_codec R141). -/
  | fcRdCmdset (base : Nat) (vlen : Half)
  /-- `FC.RD CMDID` (40_codec R142). -/
  | fcRdCmdid (base : Nat) (vlen : Half)
  /-- `FC.RD PCRC` (40_codec R143). -/
  | fcRdPcrc (base : Nat) (vlen : Half)
  /-- `FC.WR SOF` (40_codec R144). -/
  | fcWrSof (v : Half) (base : Nat) (vlen : Half)
  /-- `FC.WR LEN` (40_codec R145). -/
  | fcWrLen (v : Half) (base : Nat) (vlen : Half)
  /-- `FC.WR HCRC` (40_codec R146). -/
  | fcWrHcrc (v : Half) (base : Nat) (vlen : Half)
  /-- `FC.WR SENDER` (40_codec R147). -/
  | fcWrSender (v : Half) (base : Nat) (vlen : Half)
  /-- `FC.WR RECEIVER` (40_codec R148). -/
  | fcWrReceiver (v : Half) (base : Nat) (vlen : Half)
  /-- `FC.WR SEQ` (40_codec R149). -/
  | fcWrSeq (v : Half) (base : Nat) (vlen : Half)
  /-- `FC.WR FLAGS` (40_codec R150). -/
  | fcWrFlags (v : Half) (base : Nat) (vlen : Half)
  /-- `FC.WR IS_ACK` (40_codec R151). -/
  | fcWrIsAck (v : Half) (base : Nat) (vlen : Half)
  /-- `FC.WR NEED_ACK` (40_codec R152). -/
  | fcWrNeedAck (v : Half) (base : Nat) (vlen : Half)
  /-- `FC.WR ENC` (40_codec R153). -/
  | fcWrEnc (v : Half) (base : Nat) (vlen : Half)
  /-- `FC.WR CMDSET` (40_codec R154). -/
  | fcWrCmdset (v : Half) (base : Nat) (vlen : Half)
  /-- `FC.WR CMDID` (40_codec R155). -/
  | fcWrCmdid (v : Half) (base : Nat) (vlen : Half)
  /-- `FC.WR PCRC` (40_codec R156). -/
  | fcWrPcrc (v : Half) (base : Nat) (vlen : Half)
  /-- `FC.VALID` (40_codec R158). -/
  | fcValid (base : Nat) (vlen : Half)
  /-- `FC.FINH` (40_codec R159). -/
  | fcFinh (base : Nat) (vlen : Half)
  /-- `FC.FINP` (40_codec R160). -/
  | fcFinp (base : Nat) (vlen : Half)
  /-- `FC.PAYLOAD` (40_codec R161). -/
  | fcPayload (base : Nat) (vlen : Half)
  /-- `SCAN` (41_scanner R196). -/
  | scan (base : Nat) (vlen : Half)
  /-- `RA.PUSH` (42_reassembler R221). -/
  | raPush (chan : Nat) (k : Half) (data : List Byte)
  /-- `RA.FLUSH` (42_reassembler R233). -/
  | raFlush (chan : Nat)
  /-- `RA.STATUS` (42_reassembler R234). -/
  | raStatus (chan : Nat)
  /-- `BLK.RESET` (42_reassembler R235). -/
  | blkReset
deriving DecidableEq, Repr

/-- The request record of 30_encoding R98. `base`, `chan` and `data` have widths that are parameters
(ADDR_W, CHAN_ID_W, FRAG_MAX bytes), so they are plain data with `Request.fits` to say that they fit the port.
`data` lists the first data lanes; a lane that is not listed carries 0x00 (log 5). -/
structure Request where
  cw : CmdWord
  base : Nat
  vlen : Half
  chan : Nat
  data : List Byte
deriving DecidableEq, Repr

end Sys2Proof
end

