-- ==== Sys2Proof/Machine/State.lean ====
section
/-! DEFINITION. The state of the block and of the host beside it (10_state R33 to R45), and the state right after reset. -/

namespace Sys2Proof.Machine

/-- One channel's state: the accumulation buffer (10_state R34) and the hint (R35). -/
structure Chan where
  buf : List Byte
  hint : Option Nat
deriving DecidableEq, Repr

/-- What the host (or the outside) does next, between operations (00_scope R13). -/
inductive HostAct where
  /-- put a request on the request port (10_state R40) -/
  | issue (r : Request)
  /-- `HOST.STORE <addr>, bytes`: write host memory (30_encoding R109, 20_memory R73) -/
  | store (addr : Nat) (bytes : List Byte)
  /-- take the response from the response port (10_state R41) -/
  | readResponse
  /-- the reset event, from outside the block (70_reset R300) -/
  | resetEvent
deriving DecidableEq, Repr

/-- The state. The block's own state is `chans`, `request` and `response`; `params` is its fixed configuration
(10_state R39, log 1); `mem` belongs to the host (R38); `host` is the model's own field (log 6). -/
structure State where
  /-- the parameters the block was built with; no step changes them -/
  params : Params
  /-- host memory HM (20_memory R60) -/
  mem : Memory
  /-- the channel table (10_state R33): the channels that are not IDLE, by channel id -/
  chans : List (Nat × Chan)
  /-- the request port: the request in flight (10_state R40) -/
  request : Option Request
  /-- the response port: the response pending (10_state R41, R44) -/
  response : Option Response
  /-- what the host does next, first act first -/
  host : List HostAct
deriving DecidableEq, Repr

/-- Why the model stops: an error of the HOST's side; no instruction raises it. Log 9. -/
inductive Fault where
  /-- Raised by the host's turn when a `HOST.STORE` names a byte outside the 2^ADDR_W bytes of host memory
  (20_memory R60: there is no such address). Safe: the model stops where the spec gives no behaviour. -/
  | hostStoreOutsideMemory
deriving DecidableEq, Repr

/-- Why the model gives an instruction no meaning. -/
inductive Refusal where
  /-- Raised by an arm of `exec` whose instruction has no meaning yet; no arm does. Safe. -/
  | notModelled (mnemonic : String)
deriving DecidableEq, Repr

/-- Right after reset (10_state R44, 70_reset R300): every channel IDLE, no request in flight, no response pending.
Parameters: log 2. Host memory: log 4. Host script: log 6. -/
def State.reset : State where
  params := Params.suggested
  mem := []
  chans := []
  request := none
  response := none
  host := []

end Sys2Proof.Machine
end

