-- ==== Sys2Proof/Machine/Operands.lean ====
section
/-! DEFINITION. The operands of an operation: a view of host memory (20_memory R61, 00_scope R10), an `FC.WR` value
(60_exceptions R273), a fragment (30_encoding R98). -/

namespace Sys2Proof.Machine

/-- The view `(base, n)` is legal: `base + n ≤ 2^ADDR_W`, without wrap-around (20_memory R61). -/
def viewLegal (p : Params) (base : Nat) (n : Half) : Bool := decide (base + n.toNat ≤ 2 ^ p.addrW)

/-- `b[i]` of the view at `base` (00_scope R10). -/
def State.viewByte (s : State) (base i : Nat) : Byte := s.mem.read (base + i)

/-- `b[i..j)` of the view at `base` (00_scope R10). -/
def State.viewBytes (s : State) (base i j : Nat) : List Byte := (List.range (j - i)).map fun k => s.viewByte base (i + k)

/-- `Lf(V)`: the declared length of the frame in the view at `base` (00_scope R10, 30_encoding R92). -/
def State.viewLen (s : State) (base : Nat) : Nat := (lenField (s.viewByte base 1) (s.viewByte base 2)).toNat

/-- Whether the value `v` of an `FC.WR` fits a field of `w` bits (60_exceptions R273). -/
def valueFits (v : Half) (w : Nat) : Bool := decide (v.toNat < 2 ^ w)

/-- The `k` bytes of a fragment: the listed data lanes, a lane not listed carrying 0x00 (30_encoding R98, log 5). -/
def fragment (data : List Byte) (k : Half) : List Byte :=
  (data ++ List.replicate (k.toNat - data.length) 0x00#8).take k.toNat

end Sys2Proof.Machine
end

