-- ==== Sys2Proof/Machine/Ops.lean ====
section
/-! DEFINITION. The named operations over the state that the meanings share: answering a request, reporting a fault
(this block's only "exception"), the checks in front of a codec operation, the channel table, reset. -/

namespace Sys2Proof.Machine

/-- The outcome of a step of this machine. -/
abbrev Out := Host.Outcome State Fault Refusal

/-- `MemWrite(addr, 1, v)` on the host-memory port (10_state R42). -/
def State.writeByte (s : State) (a : Nat) (v : Byte) : State := { s with mem := s.mem.write a v }

/-- `return r`: the operation ends with status OK and payload `r` (00_scope R8). -/
def State.reply (s : State) (p : Payload) : State := { s with response := some { status := .ok, payload := p } }

/-- `raise Fault(code)`: TAKING AN EXCEPTION on this block. The response carries the status and an empty payload and
nothing else changes (60_exceptions R271). There is no saved state, no vector and no mode (R281), and so no return from
a fault either (R282): the next request is taken as usual. -/
def State.raise (s : State) (e : Status) : State := { s with response := some { status := e, payload := .empty } }

/-- Runs `body` behind the value-width check of an `FC.WR` (40_codec R130 (c)), which comes before the view checks. -/
def onValue (s : State) (v : Half) (w : Nat) (body : Out) : Out :=
  if valueFits v w then body else .next (s.raise .errValue)

/-- Runs `body` behind the view-legality check (40_codec R130 (b), 20_memory R61). -/
def onLegalView (s : State) (base : Nat) (n : Half) (body : Out) : Out :=
  if viewLegal s.params base n then body else .next (s.raise .errRange)

/-- Runs `body` behind view legality and the range condition `n ≥ need` (40_codec R130 (b) and (d)). -/
def onView (s : State) (base : Nat) (n : Half) (need : Nat) (body : Out) : Out :=
  onLegalView s base n (if need ≤ n.toNat then body else .next (s.raise .errRange))

/-- Runs `body L` behind the checks of an access placed by the declared length: `n ≥ 3`, then `13 ≤ L ≤ n`
(40_codec R130 (d)). -/
def onFrame (s : State) (base : Nat) (n : Half) (body : Nat → Out) : Out :=
  onView s base n 3
    (if minFrame ≤ s.viewLen base ∧ s.viewLen base ≤ n.toNat then body (s.viewLen base)
     else .next (s.raise .errRange))

/-- The channel state an idle channel has (42_reassembler R237). -/
def Chan.idle : Chan where
  buf := []
  hint := none

/-- `ch[c]`: every channel identifier has an entry (10_state R33). -/
def State.getChan (s : State) (c : Nat) : Chan := sparseGet Chan.idle s.chans c

/-- Writes `ch[c]`. -/
def State.setChan (s : State) (c : Nat) (ch : Chan) : State := { s with chans := sparseSet Chan.idle s.chans c ch }

/-- Every channel idle: `for every c: ch[c].buf <- []; ch[c].hint <- None` (42_reassembler R235). -/
def State.clearChans (s : State) : State := { s with chans := [] }

/-- The reset event (70_reset R300): every channel idle, the request in flight dropped without a response, no response
pending; host memory and the parameters untouched (10_state R44). -/
def State.onResetEvent (s : State) : State := { s.clearChans with request := none, response := none }

end Sys2Proof.Machine
end

