-- ==== Sys2Proof/Machine/Block.lean ====
section
/-! DEFINITION. The operation on the whole block: BLK.RESET (42_reassembler R235). -/

namespace Sys2Proof.Machine

/-- `BLK.RESET` (42_reassembler R235): the reset event's effect, with a response (70_reset R302). -/
def execBlkReset (s : State) : Out := .next (s.clearChans.reply .empty)

end Sys2Proof.Machine
end

