-- ==== Sys2Proof/Machine/Checksum.lean ====
section
/-! DEFINITION. The checksum units CK8 and CK16 (41_scanner R180 to R187) and the two checks made with them. -/

namespace Sys2Proof.Machine

/-- One bit step of the recommended CK8 (41_scanner R186). -/
def crc8Bit (c : BitVec 8) : BitVec 8 := if c.getLsbD 0 then (c >>> 1) ^^^ 0x8C#8 else c >>> 1

/-- One byte of the recommended CK8: XOR in, then eight bit steps (41_scanner R186). -/
def crc8Byte (c : BitVec 8) (x : Byte) : BitVec 8 := crc8Bit^[8] (c ^^^ x)

/-- The recommended CK8 (41_scanner R186): a reflected CRC-8, initial value the seed, no final XOR. -/
def crc8 (seed : BitVec 8) (s : List Byte) : BitVec 8 := s.foldl crc8Byte seed

/-- One bit step of the recommended CK16 (41_scanner R187). -/
def crc16Bit (c : BitVec 16) : BitVec 16 := if c.getLsbD 0 then (c >>> 1) ^^^ 0x8408#16 else c >>> 1

/-- One byte of the recommended CK16: XOR in, then eight bit steps (41_scanner R187). -/
def crc16Byte (c : BitVec 16) (x : Byte) : BitVec 16 := crc16Bit^[8] (c ^^^ x.setWidth 16)

/-- The recommended CK16 (41_scanner R187): a reflected CRC-16, initial value the seed, no final XOR. -/
def crc16 (seed : BitVec 16) (s : List Byte) : BitVec 16 := s.foldl crc16Byte seed

/-- The 3 bytes the first vector of 41_scanner R184 covers. -/
def vector8a : List Byte := [0x55, 0x1B, 0x04]

/-- The 25 bytes the second vector of 41_scanner R184 covers. -/
def vector16a : List Byte :=
  [0x55, 0x1B, 0x04, 0x75, 0x09, 0xC3, 0xE0, 0x00, 0x00, 0x3F, 0x60, 0x00, 0x04, 0x20, 0x00, 0x01, 0x00, 0x40, 0x00,
    0x02, 0x10, 0x04, 0x03, 0x00, 0x04]

/-- The 3 bytes the third vector of 41_scanner R184 covers. -/
def vector8b : List Byte := [0x55, 0x0E, 0x04]

/-- The 12 bytes the fourth vector of 41_scanner R184 covers. -/
def vector16b : List Byte :=
  [0x55, 0x0E, 0x04, 0x66, 0x09, 0x03, 0x4E, 0x06, 0xA0, 0x48, 0x08, 0x01]

/-- A CK8 of which only the vectors R184 requires are known: `f` on every other input (41_scanner R184, log 3). -/
def withVectors8 (f : BitVec 8 → List Byte → BitVec 8) (seed : BitVec 8) (s : List Byte) : BitVec 8 :=
  if seed = seed8 ∧ s = vector8a then 0x75#8
  else if seed = seed8 ∧ s = vector8b then 0x66#8
  else f seed s

/-- A CK16 of which only the vectors R184 requires are known: `f` on every other input (41_scanner R184, log 3). -/
def withVectors16 (f : BitVec 16 → List Byte → BitVec 16) (seed : BitVec 16) (s : List Byte) : BitVec 16 :=
  if seed = seed16 ∧ s = vector16a then 0xF0FA#16
  else if seed = seed16 ∧ s = vector16b then 0xE8C2#16
  else f seed s

/-- `CK8(seed, s)` of a block built with the choice `ck` (00_scope R9, 41_scanner R180, R184). -/
def ck8 (ck : CkChoice) (seed : BitVec 8) (s : List Byte) : BitVec 8 :=
  match ck with
  | .recommended => crc8 seed s
  | .other n => withVectors8 (Config.otherCk8 n) seed s

/-- `CK16(seed, s)` of a block built with the choice `ck` (00_scope R9, 41_scanner R181, R184). -/
def ck16 (ck : CkChoice) (seed : BitVec 16) (s : List Byte) : BitVec 16 :=
  match ck with
  | .recommended => crc16 seed s
  | .other n => withVectors16 (Config.otherCk16 n) seed s

/-- `hdr_ok(t, off)` (41_scanner R182). -/
def hdrOk (ck : CkChoice) (t : List Byte) (off : Nat) : Bool :=
  ck8 ck seed8 (slice t off (off + 3)) == byteAt t (off + 3)

/-- `pkt_ok(t, off, L)` (41_scanner R183). -/
def pktOk (ck : CkChoice) (t : List Byte) (off len : Nat) : Bool :=
  ck16 ck seed16 (slice t off (off + len - 2)) == le16 (byteAt t (off + len - 2)) (byteAt t (off + len - 1))

/-- The sequence with bit `j` of byte `i` flipped. -/
def flipBit (t : List Byte) (i j : Nat) : List Byte := t.modify i (fun b => b ^^^ (1#8 <<< j))

/-- The single-bit detection the spec assumes of both checksums (41_scanner R185): the value changes when any one
bit of the covered bytes flips, for the sequence lengths the block uses (R180, R181). -/
def ckDetectsBitFlips (ck : CkChoice) : Prop :=
  (∀ (s : List Byte) (i j : Nat), s.length = 3 → i < 3 → j < 8 →
    ck8 ck seed8 (flipBit s i j) ≠ ck8 ck seed8 s) ∧
  (∀ (s : List Byte) (i j : Nat), 11 ≤ s.length → s.length ≤ 1021 → i < s.length → j < 8 →
    ck16 ck seed16 (flipBit s i j) ≠ ck16 ck seed16 s)

end Sys2Proof.Machine
end

