-- ==== Sys2Proof/Machine/Codec.lean ====
section
/-! DEFINITION. The frame codec, FC.* (40_codec). `check_cw()` is the decoder's; the checks of 40_codec R130 (b) to (d)
stand in the shared operations of Ops. -/

namespace Sys2Proof.Machine

/-- `FC.RD SOF` (40_codec R131). -/
def execFcRdSof (base : Nat) (vlen : Half) (s : State) : Out :=
  onView s base vlen 1 (.next (s.reply (.value ((s.viewByte base 0).setWidth 16))))

/-- `FC.RD LEN` (40_codec R132). -/
def execFcRdLen (base : Nat) (vlen : Half) (s : State) : Out :=
  onView s base vlen 3 (.next (s.reply (.value (lenField (s.viewByte base 1) (s.viewByte base 2)))))

/-- `FC.RD HCRC` (40_codec R133). -/
def execFcRdHcrc (base : Nat) (vlen : Half) (s : State) : Out :=
  onView s base vlen 4 (.next (s.reply (.value ((s.viewByte base 3).setWidth 16))))

/-- `FC.RD SENDER` (40_codec R134). -/
def execFcRdSender (base : Nat) (vlen : Half) (s : State) : Out :=
  onView s base vlen 5 (.next (s.reply (.value ((s.viewByte base 4).setWidth 16))))

/-- `FC.RD RECEIVER` (40_codec R135). -/
def execFcRdReceiver (base : Nat) (vlen : Half) (s : State) : Out :=
  onView s base vlen 6 (.next (s.reply (.value ((s.viewByte base 5).setWidth 16))))

/-- `FC.RD SEQ` (40_codec R136). -/
def execFcRdSeq (base : Nat) (vlen : Half) (s : State) : Out :=
  onView s base vlen 8 (.next (s.reply (.value (le16 (s.viewByte base 6) (s.viewByte base 7)))))

/-- `FC.RD FLAGS` (40_codec R137). -/
def execFcRdFlags (base : Nat) (vlen : Half) (s : State) : Out :=
  onView s base vlen 9 (.next (s.reply (.value ((s.viewByte base 8).setWidth 16))))

/-- `FC.RD IS_ACK` (40_codec R138). -/
def execFcRdIsAck (base : Nat) (vlen : Half) (s : State) : Out :=
  onView s base vlen 9 (.next (s.reply (.value (flagIsAck (s.viewByte base 8)))))

/-- `FC.RD NEED_ACK` (40_codec R139). -/
def execFcRdNeedAck (base : Nat) (vlen : Half) (s : State) : Out :=
  onView s base vlen 9 (.next (s.reply (.value (flagNeedAck (s.viewByte base 8)))))

/-- `FC.RD ENC` (40_codec R140). -/
def execFcRdEnc (base : Nat) (vlen : Half) (s : State) : Out :=
  onView s base vlen 9 (.next (s.reply (.value (flagEnc (s.viewByte base 8)))))

/-- `FC.RD CMDSET` (40_codec R141). -/
def execFcRdCmdset (base : Nat) (vlen : Half) (s : State) : Out :=
  onView s base vlen 10 (.next (s.reply (.value ((s.viewByte base 9).setWidth 16))))

/-- `FC.RD CMDID` (40_codec R142). -/
def execFcRdCmdid (base : Nat) (vlen : Half) (s : State) : Out :=
  onView s base vlen 11 (.next (s.reply (.value ((s.viewByte base 10).setWidth 16))))

/-- `FC.RD PCRC` (40_codec R143). -/
def execFcRdPcrc (base : Nat) (vlen : Half) (s : State) : Out :=
  onFrame s base vlen fun len =>
    .next (s.reply (.value (le16 (s.viewByte base (len - 2)) (s.viewByte base (len - 1)))))

/-- `p` stored little-endian in the last two bytes of a frame of `len` bytes (30_encoding R94; 40_codec R156, R160). -/
def State.storePcrc (s : State) (base len : Nat) (p : Half) : State :=
  (s.writeByte (base + (len - 2)) (loByte p)).writeByte (base + (len - 1)) (hiByte p)

/-- `FC.WR SOF` (40_codec R144). -/
def execFcWrSof (v : Half) (base : Nat) (vlen : Half) (s : State) : Out :=
  onValue s v 8 (onView s base vlen 1 (.next ((s.writeByte (base + 0) (loByte v)).reply .empty)))

/-- `FC.WR LEN` (40_codec R145). -/
def execFcWrLen (v : Half) (base : Nat) (vlen : Half) (s : State) : Out :=
  onValue s v 10 (onView s base vlen 3
    (.next (((s.writeByte (base + 1) (loByte v)).writeByte (base + 2) (lenByte2 (s.viewByte base 2) v)).reply .empty)))

/-- `FC.WR HCRC` (40_codec R146). -/
def execFcWrHcrc (v : Half) (base : Nat) (vlen : Half) (s : State) : Out :=
  onValue s v 8 (onView s base vlen 4 (.next ((s.writeByte (base + 3) (loByte v)).reply .empty)))

/-- `FC.WR SENDER` (40_codec R147). -/
def execFcWrSender (v : Half) (base : Nat) (vlen : Half) (s : State) : Out :=
  onValue s v 8 (onView s base vlen 5 (.next ((s.writeByte (base + 4) (loByte v)).reply .empty)))

/-- `FC.WR RECEIVER` (40_codec R148). -/
def execFcWrReceiver (v : Half) (base : Nat) (vlen : Half) (s : State) : Out :=
  onValue s v 8 (onView s base vlen 6 (.next ((s.writeByte (base + 5) (loByte v)).reply .empty)))

/-- `FC.WR SEQ` (40_codec R149). -/
def execFcWrSeq (v : Half) (base : Nat) (vlen : Half) (s : State) : Out :=
  onView s base vlen 8 (.next (((s.writeByte (base + 6) (loByte v)).writeByte (base + 7) (hiByte v)).reply .empty))

/-- `FC.WR FLAGS` (40_codec R150). -/
def execFcWrFlags (v : Half) (base : Nat) (vlen : Half) (s : State) : Out :=
  onValue s v 8 (onView s base vlen 9 (.next ((s.writeByte (base + 8) (loByte v)).reply .empty)))

/-- `FC.WR IS_ACK` (40_codec R151). -/
def execFcWrIsAck (v : Half) (base : Nat) (vlen : Half) (s : State) : Out :=
  onValue s v 1 (onView s base vlen 9
    (.next ((s.writeByte (base + 8) (setFlagIsAck (s.viewByte base 8) v)).reply .empty)))

/-- `FC.WR NEED_ACK` (40_codec R152). -/
def execFcWrNeedAck (v : Half) (base : Nat) (vlen : Half) (s : State) : Out :=
  onValue s v 1 (onView s base vlen 9
    (.next ((s.writeByte (base + 8) (setFlagNeedAck (s.viewByte base 8) v)).reply .empty)))

/-- `FC.WR ENC` (40_codec R153). -/
def execFcWrEnc (v : Half) (base : Nat) (vlen : Half) (s : State) : Out :=
  onValue s v 3 (onView s base vlen 9
    (.next ((s.writeByte (base + 8) (setFlagEnc (s.viewByte base 8) v)).reply .empty)))

/-- `FC.WR CMDSET` (40_codec R154). -/
def execFcWrCmdset (v : Half) (base : Nat) (vlen : Half) (s : State) : Out :=
  onValue s v 8 (onView s base vlen 10 (.next ((s.writeByte (base + 9) (loByte v)).reply .empty)))

/-- `FC.WR CMDID` (40_codec R155). -/
def execFcWrCmdid (v : Half) (base : Nat) (vlen : Half) (s : State) : Out :=
  onValue s v 8 (onView s base vlen 11 (.next ((s.writeByte (base + 10) (loByte v)).reply .empty)))

/-- `FC.WR PCRC` (40_codec R156). -/
def execFcWrPcrc (v : Half) (base : Nat) (vlen : Half) (s : State) : Out :=
  onFrame s base vlen fun len =>
    .next ((s.storePcrc base len v).reply .empty)

/-- The validity predicate of `FC.VALID`, evaluated left to right and stopping at the first false term (40_codec R158). -/
def State.frameValid (s : State) (base n : Nat) : Bool :=
  decide (minFrame ≤ n) && (s.viewByte base 0 == marker) && decide (s.viewLen base ≤ n) &&
    decide (minFrame ≤ s.viewLen base) &&
    (ck8 s.params.ck seed8 (s.viewBytes base 0 3) == s.viewByte base 3) &&
    (ck16 s.params.ck seed16 (s.viewBytes base 0 (s.viewLen base - 2)) ==
      le16 (s.viewByte base (s.viewLen base - 2)) (s.viewByte base (s.viewLen base - 1)))

/-- `FC.VALID` (40_codec R158). -/
def execFcValid (base : Nat) (vlen : Half) (s : State) : Out :=
  onLegalView s base vlen (.next (s.reply (.valid (s.frameValid base vlen.toNat))))

/-- `FC.FINH` (40_codec R159). -/
def execFcFinh (base : Nat) (vlen : Half) (s : State) : Out :=
  onView s base vlen 4
    (.next ((s.writeByte (base + 3) (ck8 s.params.ck seed8 (s.viewBytes base 0 3))).reply .empty))

/-- `FC.FINP` (40_codec R160). -/
def execFcFinp (base : Nat) (vlen : Half) (s : State) : Out :=
  onFrame s base vlen fun len =>
    .next ((s.storePcrc base len (ck16 s.params.ck seed16 (s.viewBytes base 0 (len - 2)))).reply .empty)

/-- `FC.PAYLOAD` (40_codec R161). -/
def execFcPayload (base : Nat) (vlen : Half) (s : State) : Out :=
  onFrame s base vlen fun len => .next (s.reply (.span (base + hdrLen) (len - minFrame)))

end Sys2Proof.Machine
end

