-- ==== Sys2Proof/Machine/Scanner.lean ====
section
/-! DEFINITION. The frame scanner (41_scanner): `ScanCore` over a byte sequence, and the SCAN operation. -/

namespace Sys2Proof.Machine

/-- A scan outcome (30_encoding R103): the source's `Ok((frame, consumed)) | Err(kind)`. -/
inductive Scan where
  /-- `OK(frame_len, consumed)`; the frame is the `frameLen` bytes ending at `consumed` -/
  | ok (frameLen consumed : Nat)
  /-- `NO_SOF` -/
  | noSof
  /-- `NEED_MORE(missing, consumed)` -/
  | needMore (missing consumed : Nat)
  /-- `BAD_HCRC(consumed)` -/
  | badHcrc (consumed : Nat)
  /-- `BAD_PCRC(consumed)` -/
  | badPcrc (consumed : Nat)
deriving DecidableEq, Repr

/-- The index of the first `MARKER` byte (41_scanner R189). -/
def markerIndex : List Byte → Option Nat
  | [] => none
  | b :: t => if b = marker then some 0 else (markerIndex t).map (· + 1)

/-- `ScanCore(t)` (41_scanner R188), its steps 1 to 6 in order. -/
def scanCore (ck : CkChoice) (t : List Byte) : Scan :=
  match markerIndex t with
  | none => .noSof
  | some off =>
    if t.length - off < probe then .needMore (probe - (t.length - off)) off
    else if ¬ hdrOk ck t off then .badHcrc (off + resync)
    else if declaredLen t off < minFrame then .badPcrc (off + resync)
    else if t.length - off < declaredLen t off then .needMore (declaredLen t off - (t.length - off)) off
    else if ¬ pktOk ck t off (declaredLen t off) then .badPcrc (off + resync)
    else .ok (declaredLen t off) (off + declaredLen t off)

/-- A count in the 16-bit `consumed` field of a scan record; a count that does not fit is a free value (log 10). -/
def consumedField (n : Nat) : Nat := if n < 2 ^ vlenW then n else (Config.wideConsumed n).toNat

/-- The outcome record of a scan, without `frame_addr` (30_encoding R103). -/
def Scan.record : Scan → ScanRecord
  | .ok frameLen consumed => { kind := .ok, missing := 0, consumed := consumedField consumed, frameLen := frameLen }
  | .noSof => { kind := .noSof, missing := 0, consumed := 0, frameLen := 0 }
  | .needMore missing consumed =>
    { kind := .needMore, missing := missing, consumed := consumedField consumed, frameLen := 0 }
  | .badHcrc consumed => { kind := .badHcrc, missing := 0, consumed := consumedField consumed, frameLen := 0 }
  | .badPcrc consumed => { kind := .badPcrc, missing := 0, consumed := consumedField consumed, frameLen := 0 }

/-- `frame_addr` of a SCAN response: the frame's first byte in host memory, 0 without a frame (30_encoding R103). -/
def Scan.frameAddr (base : Nat) : Scan → Nat
  | .ok frameLen consumed => base + (consumed - frameLen)
  | .noSof => 0
  | .needMore _ _ => 0
  | .badHcrc _ => 0
  | .badPcrc _ => 0

/-- `SCAN` (41_scanner R196). -/
def execScan (base : Nat) (vlen : Half) (s : State) : Out :=
  onLegalView s base vlen
    (let r := scanCore s.params.ck (s.viewBytes base 0 vlen.toNat)
     .next (s.reply (.scan r.record (r.frameAddr base))))

end Sys2Proof.Machine
end

