-- ==== Sys2Proof/Machine/Reassembler.lean ====
section
/-! DEFINITION. The stream reassembler (42_reassembler): RA.PUSH with its recovery loop, RA.FLUSH, RA.STATUS. -/

namespace Sys2Proof.Machine

/-- What a push computes: the channel's new state, the frames it delivers, the trace of its scans (42_reassembler R221). -/
structure PushResult where
  chan : Chan
  frames : List Frame
  trace : List ScanRecord
deriving DecidableEq, Repr

/-- The result with one more scan in front of its trace. -/
def PushResult.traced (r : PushResult) (o : Scan) : PushResult := { r with trace := o.record :: r.trace }

/-- The result with one more frame in front of its frames. -/
def PushResult.yielding (r : PushResult) (f : Frame) : PushResult := { r with frames := f :: r.frames }

/-- The loop of 42_reassembler R221, steps 3 to 7 (R226 to R230), over the buffer `buf` of channel `c`, for at most
`fuel` scans. `buf.length + 1` scans are always enough (R236); the first line is not reached then. -/
def drainLoop (ck : CkChoice) (c : Nat) : Nat → List Byte → PushResult
  | 0, buf => { chan := { buf := buf, hint := none }, frames := [], trace := [] }
  | fuel + 1, buf =>
    let r := scanCore ck buf
    match r with
    | .ok frameLen consumed =>
      ((drainLoop ck c fuel (buf.drop consumed)).yielding
        { chan := c, len := frameLen, bytes := slice buf (consumed - frameLen) consumed }).traced r
    | .needMore missing consumed =>
      { chan := { buf := buf.drop consumed, hint := some (missing + (buf.drop consumed).length) }, frames := [],
        trace := [r.record] }
    | .noSof => { chan := { buf := [], hint := none }, frames := [], trace := [r.record] }
    | .badHcrc consumed => (drainLoop ck c fuel (buf.drop consumed)).traced r
    | .badPcrc consumed => (drainLoop ck c fuel (buf.drop consumed)).traced r

/-- Steps 3 to 7 over a whole buffer (42_reassembler R226 to R230). -/
def drain (ck : CkChoice) (c : Nat) (buf : List Byte) : PushResult := drainLoop ck c (buf.length + 1) buf

/-- Step 2, the hint gate: a hint is set and the buffer is still shorter (42_reassembler R225). -/
def gateShut (hint : Option Nat) (buf : List Byte) : Bool :=
  match hint with
  | none => false
  | some h => decide (buf.length < h)

/-- Steps 1 to 7 for the fragment `d` on channel `c` in state `ch` (42_reassembler R224 to R230). -/
def pushFragment (ck : CkChoice) (c : Nat) (ch : Chan) (d : List Byte) : PushResult :=
  if gateShut ch.hint (ch.buf ++ d) then
    { chan := { buf := ch.buf ++ d, hint := ch.hint }, frames := [], trace := [] }
  else drain ck c (ch.buf ++ d)

/-- `RA.PUSH` (42_reassembler R221); its checks are R222 and R223. -/
def execRaPush (chan : Nat) (k : Half) (data : List Byte) (s : State) : Out :=
  if s.params.fragMax < k.toNat then .next (s.raise .errFrag)
  else if s.params.accCap < (s.getChan chan).buf.length + k.toNat then .next (s.raise .errOverflow)
  else
    let r := pushFragment s.params.ck chan (s.getChan chan) (fragment data k)
    .next ((s.setChan chan r.chan).reply (.push r.frames r.trace))

/-- `RA.FLUSH` (42_reassembler R233). -/
def execRaFlush (chan : Nat) (s : State) : Out := .next ((s.setChan chan Chan.idle).reply .empty)

/-- `hint` of a status response: the hint's value, 0 when there is none (30_encoding R105). -/
def hintField (hint : Option Nat) : Nat := hint.getD 0

/-- `RA.STATUS` (42_reassembler R234). -/
def execRaStatus (chan : Nat) (s : State) : Out :=
  .next (s.reply
    (.status (s.getChan chan).buf.length (s.getChan chan).hint.isSome (hintField (s.getChan chan).hint)))

end Sys2Proof.Machine
end

