-- ==== Sys2Proof/Machine/Dispatch.lean ====
section
/-! DEFINITION. The one dispatch over the operations: one direct call of a meaning per constructor of Instr. -/

namespace Sys2Proof.Machine

def exec (i : Instr) (s : State) : Host.Outcome State Fault Refusal :=
  match i with
  | .fcRdSof base vlen => Sys2Proof.Machine.execFcRdSof base vlen s
  | .fcRdLen base vlen => Sys2Proof.Machine.execFcRdLen base vlen s
  | .fcRdHcrc base vlen => Sys2Proof.Machine.execFcRdHcrc base vlen s
  | .fcRdSender base vlen => Sys2Proof.Machine.execFcRdSender base vlen s
  | .fcRdReceiver base vlen => Sys2Proof.Machine.execFcRdReceiver base vlen s
  | .fcRdSeq base vlen => Sys2Proof.Machine.execFcRdSeq base vlen s
  | .fcRdFlags base vlen => Sys2Proof.Machine.execFcRdFlags base vlen s
  | .fcRdIsAck base vlen => Sys2Proof.Machine.execFcRdIsAck base vlen s
  | .fcRdNeedAck base vlen => Sys2Proof.Machine.execFcRdNeedAck base vlen s
  | .fcRdEnc base vlen => Sys2Proof.Machine.execFcRdEnc base vlen s
  | .fcRdCmdset base vlen => Sys2Proof.Machine.execFcRdCmdset base vlen s
  | .fcRdCmdid base vlen => Sys2Proof.Machine.execFcRdCmdid base vlen s
  | .fcRdPcrc base vlen => Sys2Proof.Machine.execFcRdPcrc base vlen s
  | .fcWrSof v base vlen => Sys2Proof.Machine.execFcWrSof v base vlen s
  | .fcWrLen v base vlen => Sys2Proof.Machine.execFcWrLen v base vlen s
  | .fcWrHcrc v base vlen => Sys2Proof.Machine.execFcWrHcrc v base vlen s
  | .fcWrSender v base vlen => Sys2Proof.Machine.execFcWrSender v base vlen s
  | .fcWrReceiver v base vlen => Sys2Proof.Machine.execFcWrReceiver v base vlen s
  | .fcWrSeq v base vlen => Sys2Proof.Machine.execFcWrSeq v base vlen s
  | .fcWrFlags v base vlen => Sys2Proof.Machine.execFcWrFlags v base vlen s
  | .fcWrIsAck v base vlen => Sys2Proof.Machine.execFcWrIsAck v base vlen s
  | .fcWrNeedAck v base vlen => Sys2Proof.Machine.execFcWrNeedAck v base vlen s
  | .fcWrEnc v base vlen => Sys2Proof.Machine.execFcWrEnc v base vlen s
  | .fcWrCmdset v base vlen => Sys2Proof.Machine.execFcWrCmdset v base vlen s
  | .fcWrCmdid v base vlen => Sys2Proof.Machine.execFcWrCmdid v base vlen s
  | .fcWrPcrc v base vlen => Sys2Proof.Machine.execFcWrPcrc v base vlen s
  | .fcValid base vlen => Sys2Proof.Machine.execFcValid base vlen s
  | .fcFinh base vlen => Sys2Proof.Machine.execFcFinh base vlen s
  | .fcFinp base vlen => Sys2Proof.Machine.execFcFinp base vlen s
  | .fcPayload base vlen => Sys2Proof.Machine.execFcPayload base vlen s
  | .scan base vlen => Sys2Proof.Machine.execScan base vlen s
  | .raPush chan k data => Sys2Proof.Machine.execRaPush chan k data s
  | .raFlush chan => Sys2Proof.Machine.execRaFlush chan s
  | .raStatus chan => Sys2Proof.Machine.execRaStatus chan s
  | .blkReset => Sys2Proof.Machine.execBlkReset s

end Sys2Proof.Machine
end

