-- ==== Sys2Proof/Decode.lean ====
section
/-! DEFINITION. The request encoding (30_encoding R98 to R106): the decoder, total on every request record and
rejecting by name, and the encoder. -/

namespace Sys2Proof

/-- Why a command word is reserved or illegal (30_encoding R106). The block answers each with `ERR_OP`. -/
inductive DecodeError where
  /-- an `opc` that 30_encoding R100 does not list -/
  | reservedOpc
  /-- `rsv` is not 0 -/
  | rsvNotZero
  /-- `fsel` 13, 14 or 15 in an `FC.RD` or `FC.WR` (40_codec R157) -/
  | reservedFsel
  /-- `fsel` is not 0 in an operation other than `FC.RD` and `FC.WR` -/
  | fselNotZero
  /-- `imm16` is not 0 in an operation other than `FC.WR` and `RA.PUSH` -/
  | immNotZero
deriving DecidableEq, Repr

/-- `opc`, bits 7:0 of the command word (30_encoding R99). -/
def cwOpc (cw : CmdWord) : BitVec 8 := cw.extractLsb' 0 8

/-- `fsel`, bits 11:8 of the command word (30_encoding R99). -/
def cwFsel (cw : CmdWord) : BitVec 4 := cw.extractLsb' 8 4

/-- `rsv`, bits 15:12 of the command word (30_encoding R99). -/
def cwRsv (cw : CmdWord) : BitVec 4 := cw.extractLsb' 12 4

/-- `imm16`, bits 31:16 of the command word (30_encoding R99); unsigned, never extended (R110). -/
def cwImm (cw : CmdWord) : Half := cw.extractLsb' 16 16

/-- The field an `FC.RD` names by its `fsel` (30_encoding R101). -/
def decodeRead (fsel : Nat) (base : Nat) (vlen : Half) : Except DecodeError Instr :=
  match fsel with
  | 0 => .ok (.fcRdSof base vlen)
  | 1 => .ok (.fcRdLen base vlen)
  | 2 => .ok (.fcRdHcrc base vlen)
  | 3 => .ok (.fcRdSender base vlen)
  | 4 => .ok (.fcRdReceiver base vlen)
  | 5 => .ok (.fcRdSeq base vlen)
  | 6 => .ok (.fcRdFlags base vlen)
  | 7 => .ok (.fcRdIsAck base vlen)
  | 8 => .ok (.fcRdNeedAck base vlen)
  | 9 => .ok (.fcRdEnc base vlen)
  | 10 => .ok (.fcRdCmdset base vlen)
  | 11 => .ok (.fcRdCmdid base vlen)
  | 12 => .ok (.fcRdPcrc base vlen)
  | _ => .error .reservedFsel

/-- The field an `FC.WR` names by its `fsel` (30_encoding R101). -/
def decodeWrite (fsel : Nat) (v : Half) (base : Nat) (vlen : Half) : Except DecodeError Instr :=
  match fsel with
  | 0 => .ok (.fcWrSof v base vlen)
  | 1 => .ok (.fcWrLen v base vlen)
  | 2 => .ok (.fcWrHcrc v base vlen)
  | 3 => .ok (.fcWrSender v base vlen)
  | 4 => .ok (.fcWrReceiver v base vlen)
  | 5 => .ok (.fcWrSeq v base vlen)
  | 6 => .ok (.fcWrFlags v base vlen)
  | 7 => .ok (.fcWrIsAck v base vlen)
  | 8 => .ok (.fcWrNeedAck v base vlen)
  | 9 => .ok (.fcWrEnc v base vlen)
  | 10 => .ok (.fcWrCmdset v base vlen)
  | 11 => .ok (.fcWrCmdid v base vlen)
  | 12 => .ok (.fcWrPcrc v base vlen)
  | _ => .error .reservedFsel

/-- An operation that uses neither `fsel` nor `imm16`: both must be 0 (30_encoding R99, R106). -/
def decodePlain (cw : CmdWord) (i : Instr) : Except DecodeError Instr :=
  if cwFsel cw ≠ 0 then .error .fselNotZero
  else if cwImm cw ≠ 0 then .error .immNotZero
  else .ok i

/-- The operation a request asks for, or why its command word is refused (30_encoding R98 to R101, R106).
Operand fields the operation does not use are ignored, and so are data bytes beyond `k` (R98). -/
def decode (r : Request) : Except DecodeError Instr :=
  if cwRsv r.cw ≠ 0 then .error .rsvNotZero
  else
    match (cwOpc r.cw).toNat with
    | 0x01 =>
      if cwImm r.cw ≠ 0 then .error .immNotZero
      else decodeRead (cwFsel r.cw).toNat r.base r.vlen
    | 0x02 => decodeWrite (cwFsel r.cw).toNat (cwImm r.cw) r.base r.vlen
    | 0x03 => decodePlain r.cw (.fcValid r.base r.vlen)
    | 0x04 => decodePlain r.cw (.fcFinh r.base r.vlen)
    | 0x05 => decodePlain r.cw (.fcFinp r.base r.vlen)
    | 0x06 => decodePlain r.cw (.fcPayload r.base r.vlen)
    | 0x10 => decodePlain r.cw (.scan r.base r.vlen)
    | 0x20 =>
      if cwFsel r.cw ≠ 0 then .error .fselNotZero
      else .ok (.raPush r.chan (cwImm r.cw) (r.data.take (cwImm r.cw).toNat))
    | 0x21 => decodePlain r.cw (.raFlush r.chan)
    | 0x22 => decodePlain r.cw (.raStatus r.chan)
    | 0x30 => decodePlain r.cw .blkReset
    | _ => .error .reservedOpc

/-- The request whose command word is the table word `w` and whose operand fields are all 0
(`nbits` is the width spec/opcode_table.json gives a row, always 32). -/
def tableRequest (nbits w : Nat) : Request where
  cw := BitVec.ofNat 32 (w % 2 ^ nbits)
  base := 0
  vlen := 0
  chan := 0
  data := []

/-- The operation the decoder reads from a word of spec/opcode_table.json, every operand field 0. -/
def decodeTableWord (nbits w : Nat) : Option Instr :=
  match decode (tableRequest nbits w) with
  | .ok i => some i
  | .error _ => none

/-- A request that uses the view operands (`FC.*`, `SCAN`). -/
def viewRequest (cw : CmdWord) (base : Nat) (vlen : Half) : Request where
  cw := cw
  base := base
  vlen := vlen
  chan := 0
  data := []

/-- A request that uses the channel operand and lists data bytes (`RA.*`). -/
def chanRequest (cw : CmdWord) (chan : Nat) (data : List Byte) : Request where
  cw := cw
  base := 0
  vlen := 0
  chan := chan
  data := data

/-- A command word with `imm16 = v` and the given low half: `(v << 16) | low` (30_encoding R99). -/
def cwWithImm (v : Half) (low : BitVec 16) : CmdWord := v ++ low

/-- The request record of an operation (30_encoding R98 to R101, R108); operand fields it does not use are 0.
A push of more than FRAG_MAX bytes lists them all, as 95_test_vectors V-RA18 writes it; the port takes the first
FRAG_MAX (DESIGN CHOICE, log 19). -/
def encode : Instr → Request
  | .fcRdSof base vlen => viewRequest 0x00000001#32 base vlen
  | .fcRdLen base vlen => viewRequest 0x00000101#32 base vlen
  | .fcRdHcrc base vlen => viewRequest 0x00000201#32 base vlen
  | .fcRdSender base vlen => viewRequest 0x00000301#32 base vlen
  | .fcRdReceiver base vlen => viewRequest 0x00000401#32 base vlen
  | .fcRdSeq base vlen => viewRequest 0x00000501#32 base vlen
  | .fcRdFlags base vlen => viewRequest 0x00000601#32 base vlen
  | .fcRdIsAck base vlen => viewRequest 0x00000701#32 base vlen
  | .fcRdNeedAck base vlen => viewRequest 0x00000801#32 base vlen
  | .fcRdEnc base vlen => viewRequest 0x00000901#32 base vlen
  | .fcRdCmdset base vlen => viewRequest 0x00000A01#32 base vlen
  | .fcRdCmdid base vlen => viewRequest 0x00000B01#32 base vlen
  | .fcRdPcrc base vlen => viewRequest 0x00000C01#32 base vlen
  | .fcWrSof v base vlen => viewRequest (cwWithImm v 0x0002#16) base vlen
  | .fcWrLen v base vlen => viewRequest (cwWithImm v 0x0102#16) base vlen
  | .fcWrHcrc v base vlen => viewRequest (cwWithImm v 0x0202#16) base vlen
  | .fcWrSender v base vlen => viewRequest (cwWithImm v 0x0302#16) base vlen
  | .fcWrReceiver v base vlen => viewRequest (cwWithImm v 0x0402#16) base vlen
  | .fcWrSeq v base vlen => viewRequest (cwWithImm v 0x0502#16) base vlen
  | .fcWrFlags v base vlen => viewRequest (cwWithImm v 0x0602#16) base vlen
  | .fcWrIsAck v base vlen => viewRequest (cwWithImm v 0x0702#16) base vlen
  | .fcWrNeedAck v base vlen => viewRequest (cwWithImm v 0x0802#16) base vlen
  | .fcWrEnc v base vlen => viewRequest (cwWithImm v 0x0902#16) base vlen
  | .fcWrCmdset v base vlen => viewRequest (cwWithImm v 0x0A02#16) base vlen
  | .fcWrCmdid v base vlen => viewRequest (cwWithImm v 0x0B02#16) base vlen
  | .fcWrPcrc v base vlen => viewRequest (cwWithImm v 0x0C02#16) base vlen
  | .fcValid base vlen => viewRequest 0x00000003#32 base vlen
  | .fcFinh base vlen => viewRequest 0x00000004#32 base vlen
  | .fcFinp base vlen => viewRequest 0x00000005#32 base vlen
  | .fcPayload base vlen => viewRequest 0x00000006#32 base vlen
  | .scan base vlen => viewRequest 0x00000010#32 base vlen
  | .raPush chan k data => chanRequest (cwWithImm k 0x0020#16) chan data
  | .raFlush chan => chanRequest 0x00000021#32 chan []
  | .raStatus chan => chanRequest 0x00000022#32 chan []
  | .blkReset => chanRequest 0x00000030#32 0 []

end Sys2Proof
end

