-- ==== Sys2Proof/WellFormed.lean ====
section
/-! DEFINITION. Which parameters, requests and operations are well formed (00_scope R7, 30_encoding R98). -/

namespace Sys2Proof

/-- The constraints of 00_scope R7: `ADDR_W ≥ VLEN_W`, `9 ≤ FRAG_MAX ≤ 2^16 - 1`, `ACC_CAP ≥ MAX_LEN - 1 + FRAG_MAX`. -/
abbrev Params.legal (p : Params) : Prop :=
  Machine.vlenW ≤ p.addrW ∧ 9 ≤ p.fragMax ∧ p.fragMax ≤ 2 ^ 16 - 1 ∧ Machine.maxLen - 1 + p.fragMax ≤ p.accCap

/-- A value that fits an ADDR_W-bit operand field. -/
def addrFits (p : Params) (base : Nat) : Bool := decide (base < 2 ^ p.addrW)

/-- A value that fits a CHAN_ID_W-bit operand field: it names an existing channel (42_reassembler R220). -/
def chanFits (p : Params) (chan : Nat) : Bool := decide (chan < 2 ^ p.chanIdW)

/-- Data bytes listed for a push of `k` bytes: no more than the `k` the push takes, and no more than the
FRAG_MAX lanes the port has (30_encoding R98). -/
def dataFits (p : Params) (k : Half) (data : List Byte) : Bool :=
  decide (data.length ≤ k.toNat) && decide (data.length ≤ p.fragMax)

/-- A request record that fits the request port (30_encoding R98). -/
def Request.fits (p : Params) (r : Request) : Bool :=
  addrFits p r.base && chanFits p r.chan && decide (r.data.length ≤ p.fragMax)

/-- An operation whose operands fit the fields of the request record that carries it. -/
def Instr.wf (p : Params) : Instr → Bool
  | .fcRdSof base _
  | .fcRdLen base _
  | .fcRdHcrc base _
  | .fcRdSender base _
  | .fcRdReceiver base _
  | .fcRdSeq base _
  | .fcRdFlags base _
  | .fcRdIsAck base _
  | .fcRdNeedAck base _
  | .fcRdEnc base _
  | .fcRdCmdset base _
  | .fcRdCmdid base _
  | .fcRdPcrc base _
  | .fcWrSof _ base _
  | .fcWrLen _ base _
  | .fcWrHcrc _ base _
  | .fcWrSender _ base _
  | .fcWrReceiver _ base _
  | .fcWrSeq _ base _
  | .fcWrFlags _ base _
  | .fcWrIsAck _ base _
  | .fcWrNeedAck _ base _
  | .fcWrEnc _ base _
  | .fcWrCmdset _ base _
  | .fcWrCmdid _ base _
  | .fcWrPcrc _ base _
  | .fcValid base _
  | .fcFinh base _
  | .fcFinp base _
  | .fcPayload base _
  | .scan base _ => addrFits p base
  | .raPush chan k data => chanFits p chan && dataFits p k data
  | .raFlush chan
  | .raStatus chan => chanFits p chan
  | .blkReset => true

end Sys2Proof
end

