-- ==== Sys2Proof/Machine/HostTurn.lean ====
section
/-! DEFINITION. The agents around an operation (00_scope R13): the host's turn, the reset event, the pseudo-operation
FC.FIN of 30_encoding R109 as a list of host acts. -/

namespace Sys2Proof.Machine

/-- Whether the outside asserts the reset event next (70_reset R300). -/
def State.resetAsserted (s : State) : Bool :=
  match s.host with
  | .resetEvent :: _ => true
  | _ => false

/-- What a `w`-bit operand field of the request port holds when the host's script gives the number `n` for it:
`n` if it fits, else a free value of `w` bits (30_encoding R98; log 19). -/
def portField (w n : Nat) : Nat := if n < 2 ^ w then n else Config.wideOperand n % 2 ^ w

/-- The record that reaches the request port when the host issues `r` (10_state R40, 30_encoding R98). The port has
FRAG_MAX data lanes; bytes listed beyond them never count, because a push of more than FRAG_MAX bytes is answered with
ERR_FRAG whatever its data (42_reassembler R222; 95_test_vectors V-RA18). DESIGN CHOICE, log 19. -/
def requestOnPort (p : Params) (r : Request) : Request where
  cw := r.cw
  base := portField p.addrW r.base
  vlen := r.vlen
  chan := portField p.chanIdW r.chan
  data := r.data.take p.fragMax

/-- One act of the host, with no request in flight (00_scope R13, 20_memory R73); without an act nothing happens
(60_exceptions R280, R288). -/
def State.hostTurn (s : State) : Out :=
  match s.host with
  | [] => .next s
  | .issue r :: rest => .next { s with request := some (requestOnPort s.params r), host := rest }
  | .store addr bytes :: rest =>
    if addr + bytes.length ≤ 2 ^ s.params.addrW then .next { s with mem := s.mem.writeBytes addr bytes, host := rest }
    else .fault .hostStoreOutsideMemory
  | .readResponse :: rest => .next { s with response := none, host := rest }
  | .resetEvent :: rest => .next { s.onResetEvent with host := rest }

/-- The block takes the request in flight off the request port. -/
def State.takeRequest (s : State) : State := { s with request := none }

/-- The host script without reset events at its front. -/
def dropResets : List HostAct → List HostAct
  | .resetEvent :: rest => dropResets rest
  | acts => acts

/-- The state with the request `r` in flight and performed next. -/
def State.withRequest (s : State) (r : Request) : State := { s with request := some r, host := dropResets s.host }

/-- The host act that issues an operation. -/
def issueOp (i : Instr) : HostAct := .issue (encode i)

/-- `FC.FIN base, n`: `FC.FINH` and then `FC.FINP` (30_encoding R109, 70_reset R305). -/
def fcFin (base : Nat) (n : Half) : List HostAct := [issueOp (.fcFinh base n), issueOp (.fcFinp base n)]

end Sys2Proof.Machine
end

