-- ==== Sys2Proof/Machine/Perform.lean ====
section
/-! DEFINITION. The block's turn: it performs the request in flight. -/

namespace Sys2Proof.Machine

/-- The block performs the request `r`: the operation it decodes to, or `ERR_OP` (30_encoding R106, 60_exceptions R272). -/
def perform (r : Request) (s : State) : Host.Outcome State Fault Refusal :=
  match decode r with
  | .ok i => exec i s
  | .error _ => .next (s.raise .errOp)

end Sys2Proof.Machine
end

