-- ==== Sys2Proof/Machine/Step.lean ====
section
/-! DEFINITION. One step: the reset event if the outside asserts it, else the request in flight, else the host's next
act (20_memory R70, 70_reset R300; log 6). -/

namespace Sys2Proof.Machine

/-- One step of the machine. -/
def step (s : State) : Host.Outcome State Fault Refusal :=
  if s.resetAsserted then s.hostTurn
  else
    match s.request with
    | some r => perform r s.takeRequest
    | none => s.hostTurn

/-- The state with the table word `w` in flight on the request port, operand fields 0, so that the next step performs it:
it stands for the host issuing that request (log 8). -/
def State.withFetchWord (s : State) (nbits w : Nat) : State := s.withRequest (tableRequest nbits w)

end Sys2Proof.Machine
end

