-- ==== Sys2Proof/Machine/Feed.lean ====
section
/-! DEFINITION. `RA.FEED` (30_encoding R109): a list of pushes, and the frames and traces they give together. -/

namespace Sys2Proof.Machine

/-- Whether `RA.FEED chan, bytes` may expand to pushes of the chunks `ds`: successive chunks of the bytes, each of at
most FRAG_MAX bytes (30_encoding R109). -/
abbrev isFeedOf (p : Params) (bytes : List Byte) (ds : List (List Byte)) : Prop :=
  ds.flatten = bytes ∧ ∀ d ∈ ds, d.length ≤ p.fragMax

/-- The `RA.PUSH` of one chunk. -/
def pushOf (chan : Nat) (d : List Byte) : Instr := .raPush chan (BitVec.ofNat 16 d.length) d

/-- The host acts that push the chunks `ds` on a channel, in order (30_encoding R109). -/
def feedActs (chan : Nat) (ds : List (List Byte)) : List HostAct := ds.map fun d => issueOp (pushOf chan d)

/-- Successive chunks of `size` bytes, the last one shorter; at most `fuel` of them; none for no bytes (log 20). -/
def chunks (size : Nat) : Nat → List Byte → List (List Byte)
  | 0, _ => []
  | _ + 1, [] => []
  | fuel + 1, b :: bs => (b :: bs).take size :: chunks size fuel ((b :: bs).drop size)

/-- The chunks of an `RA.FEED` whose host asks for `size` bytes in each: never fewer than 1 and never more than
FRAG_MAX (30_encoding R109). No bytes give no chunk, and so no push: DESIGN CHOICE, log 20. -/
def feedChunks (p : Params) (size : Nat) (bytes : List Byte) : List (List Byte) :=
  chunks (max 1 (min size p.fragMax)) bytes.length bytes

/-- `RA.FEED chan, bytes` as host acts, with chunks of `size` bytes (30_encoding R109; log 20). -/
def raFeed (p : Params) (size chan : Nat) (bytes : List Byte) : List HostAct := feedActs chan (feedChunks p size bytes)

/-- What a list of pushes gives: the state after the last one, and their frames and traces, each joined in order. -/
structure FeedResult where
  state : State
  frames : List Frame
  trace : List ScanRecord
deriving DecidableEq, Repr

/-- The pushes of the chunks `ds` on a channel, one after another; the frames and the traces are the concatenation of
the pushes' lists (30_encoding R109). `none` if one of the pushes does not answer OK. -/
def runPushes (chan : Nat) : List (List Byte) → State → Option FeedResult
  | [], s => some { state := s, frames := [], trace := [] }
  | d :: ds, s =>
    match exec (pushOf chan d) s with
    | .next t =>
      match t.response with
      | some { status := .ok, payload := .push frames trace } =>
        (runPushes chan ds t).map fun r => { r with frames := frames ++ r.frames, trace := trace ++ r.trace }
      | _ => none
    | .fault _ => none
    | .refused _ => none

/-- `n` steps of the machine, one after another. -/
def runSteps : Nat → State → Out
  | 0, s => .next s
  | n + 1, s =>
    match step s with
    | .next t => runSteps n t
    | .fault e => .fault e
    | .refused r => .refused r

end Sys2Proof.Machine
end

