-- ==== Sys2Proof/Machine/PushMachine.lean ====
section
/-! DEFINITION. The push state machine of 42_reassembler R245, state by state. The block's RA.PUSH is atomic, so no other
operation sees these states; a claim says that the machine ends where `execRaPush` ends. -/

namespace Sys2Proof.Machine

/-- The states of 42_reassembler R245. `check_cw` is done before the operation is known (the decoder). -/
inductive PushStage where
  | check
  | append
  | gate
  | scan
  | yield (frameLen consumed : Nat)
  | resync (consumed : Nat)
  | park (missing consumed : Nat)
  | clear
  | done
  | doneFault (e : Status)
deriving DecidableEq, Repr

/-- A push in progress: its state, the channel as it stands, and the two lists of the response so far. -/
structure PushMachine where
  stage : PushStage
  chan : Chan
  frames : List Frame
  trace : List ScanRecord
deriving DecidableEq, Repr

/-- A push on a channel in state `ch` before its first action. -/
def pushStart (ch : Chan) : PushMachine where
  stage := .check
  chan := ch
  frames := []
  trace := []

/-- The stage a scan outcome leads to (42_reassembler R245, row SCAN). -/
def afterScan : Scan → PushStage
  | .ok frameLen consumed => .yield frameLen consumed
  | .noSof => .clear
  | .needMore missing consumed => .park missing consumed
  | .badHcrc consumed => .resync consumed
  | .badPcrc consumed => .resync consumed

/-- The action of the current state of a push of `k` bytes `d` on channel `c`, and its next state (42_reassembler R245). -/
def pushMachineStep (p : Params) (c k : Nat) (d : List Byte) (m : PushMachine) : PushMachine :=
  match m.stage with
  | .check =>
    if p.fragMax < k then { m with stage := .doneFault .errFrag }
    else if p.accCap < m.chan.buf.length + k then { m with stage := .doneFault .errOverflow }
    else { m with stage := .append }
  | .append => { m with stage := .gate, chan := { m.chan with buf := m.chan.buf ++ d } }
  | .gate => if gateShut m.chan.hint m.chan.buf then { m with stage := .done } else { m with stage := .scan }
  | .scan =>
    { m with
      stage := afterScan (scanCore p.ck m.chan.buf)
      chan := { m.chan with hint := none }
      trace := m.trace ++ [(scanCore p.ck m.chan.buf).record] }
  | .yield frameLen consumed =>
    { m with
      stage := .scan
      chan := { m.chan with buf := m.chan.buf.drop consumed }
      frames := m.frames ++ [{ chan := c, len := frameLen, bytes := slice m.chan.buf (consumed - frameLen) consumed }] }
  | .resync consumed => { m with stage := .scan, chan := { m.chan with buf := m.chan.buf.drop consumed } }
  | .park missing consumed =>
    { m with
      stage := .done
      chan := { buf := m.chan.buf.drop consumed, hint := some (missing + (m.chan.buf.drop consumed).length) } }
  | .clear => { m with stage := .done, chan := { m.chan with buf := [] } }
  | .done => m
  | .doneFault _ => m

end Sys2Proof.Machine
end

