-- ==== Sys2Proof/Safety.lean ====
section
/-! DEFINITION. What counts as a safe state and a safe run, and the terms the claims are stated in. -/

namespace Sys2Proof.Machine

/-- The states of a channel (42_reassembler R237, R244). -/
inductive ChanPhase where
  /-- `IDLE` -/
  | idle
  /-- `WAIT_HDR` -/
  | waitHdr
  /-- `WAIT_BODY(L)` -/
  | waitBody (len : Nat)
deriving DecidableEq, Repr

/-- When a channel is in which state (42_reassembler R237). -/
def Chan.inPhase (ck : CkChoice) (ch : Chan) : ChanPhase → Prop
  | .idle => ch.buf = [] ∧ ch.hint = none
  | .waitHdr => byteAt ch.buf 0 = marker ∧ 1 ≤ ch.buf.length ∧ ch.buf.length ≤ 3 ∧ ch.hint = some 4
  | .waitBody len =>
    byteAt ch.buf 0 = marker ∧ hdrOk ck ch.buf 0 = true ∧ declaredLen ch.buf 0 = len ∧ 13 ≤ len ∧ len ≤ 1023 ∧
      4 ≤ ch.buf.length ∧ ch.buf.length < len ∧ ch.hint = some len

/-- What holds between operations: host memory and the channel table in canonical form and inside their address
ranges, every channel in one of the states of 42_reassembler R237, a request in flight that fits the request port. -/
structure State.Inv (s : State) : Prop where
  memWf : s.mem.wf
  memRange : ∀ e ∈ s.mem, e.1 < 2 ^ s.params.addrW
  chansWf : sparseWf Chan.idle s.chans
  chansRange : ∀ e ∈ s.chans, e.1 < 2 ^ s.params.chanIdW
  phases : ∀ c, ∃ ph, (s.getChan c).inPhase s.params.ck ph
  requestFits : ∀ r, s.request = some r → r.fits s.params = true

/-- The state with the response `{e, p}` on the response port and nothing else changed. -/
def State.answer (s : State) (e : Status) (p : Payload) : State :=
  { s with response := some { status := e, payload := p } }

/-- `t` is `s` after an operation that answers OK with an empty payload and stores exactly the listed bytes
(address, value) in host memory: every other byte and every other piece of state is as before. -/
def storesExactly (s t : State) (cells : List (Nat × Nat)) : Prop :=
  t = { s with mem := t.mem, response := some { status := .ok, payload := .empty } } ∧
  (∀ e ∈ cells, (t.mem.read e.1).toNat = e.2) ∧
  ∀ a, (∀ e ∈ cells, a ≠ e.1) → t.mem.read a = s.mem.read a

/-- The listed bytes are those of the view at `base`, from offset 0 on. -/
abbrev bytesAt (s : State) (base : Nat) (t : List Byte) : Prop :=
  ∀ i, i < t.length → byteAt t i = s.mem.read (base + i)

/-- `off` is the index of the first `MARKER` byte of `t`. -/
abbrev firstMarkerAt (t : List Byte) (off : Nat) : Prop :=
  off < t.length ∧ byteAt t off = marker ∧ ∀ i, i < off → byteAt t i ≠ marker

/-- The fields an `FC.RD` and an `FC.WR` select (30_encoding R101). -/
inductive Field where
  | sof | len | hcrc | sender | receiver | seq | flags | isAck | needAck | enc | cmdset | cmdid | pcrc
deriving DecidableEq, Repr

/-- The `FC.RD` of a field. -/
def Field.rd (f : Field) (base : Nat) (n : Half) : Instr :=
  match f with
  | .sof => .fcRdSof base n
  | .len => .fcRdLen base n
  | .hcrc => .fcRdHcrc base n
  | .sender => .fcRdSender base n
  | .receiver => .fcRdReceiver base n
  | .seq => .fcRdSeq base n
  | .flags => .fcRdFlags base n
  | .isAck => .fcRdIsAck base n
  | .needAck => .fcRdNeedAck base n
  | .enc => .fcRdEnc base n
  | .cmdset => .fcRdCmdset base n
  | .cmdid => .fcRdCmdid base n
  | .pcrc => .fcRdPcrc base n

/-- The `FC.WR` of a field. -/
def Field.wr (f : Field) (v : Half) (base : Nat) (n : Half) : Instr :=
  match f with
  | .sof => .fcWrSof v base n
  | .len => .fcWrLen v base n
  | .hcrc => .fcWrHcrc v base n
  | .sender => .fcWrSender v base n
  | .receiver => .fcWrReceiver v base n
  | .seq => .fcWrSeq v base n
  | .flags => .fcWrFlags v base n
  | .isAck => .fcWrIsAck v base n
  | .needAck => .fcWrNeedAck v base n
  | .enc => .fcWrEnc v base n
  | .cmdset => .fcWrCmdset v base n
  | .cmdid => .fcWrCmdid v base n
  | .pcrc => .fcWrPcrc v base n

/-- The width of a field in bits (30_encoding R101). -/
def Field.width : Field → Nat
  | .sof => 8
  | .len => 10
  | .hcrc => 8
  | .sender => 8
  | .receiver => 8
  | .seq => 16
  | .flags => 8
  | .isAck => 1
  | .needAck => 1
  | .enc => 3
  | .cmdset => 8
  | .cmdid => 8
  | .pcrc => 16

/-- The least view length of a field's range condition (30_encoding R101); for `PCRC` the part that needs no `L`. -/
def Field.need : Field → Nat
  | .sof => 1
  | .len => 3
  | .hcrc => 4
  | .sender => 5
  | .receiver => 6
  | .seq => 8
  | .flags => 9
  | .isAck => 9
  | .needAck => 9
  | .enc => 9
  | .cmdset => 10
  | .cmdid => 11
  | .pcrc => 3

/-- Whether a field is the flag byte or one of its sub-fields (30_encoding R95). -/
def Field.inFlagByte : Field → Bool
  | .flags => true
  | .isAck => true
  | .needAck => true
  | .enc => true
  | _ => false

/-- The pairs of 40_codec R165: a write of `f` that may change what a read of `g` gives. -/
abbrev Field.affects (f g : Field) : Prop :=
  f = g ∨ (f = .flags ∧ g.inFlagByte = true) ∨ (f.inFlagByte = true ∧ g = .flags) ∨ (f = .len ∧ g = .pcrc)

/-- The view of an operation that reads host memory (20_memory R62). -/
def viewOf : Instr → Option (Nat × Half)
  | .fcRdSof b n | .fcRdLen b n | .fcRdHcrc b n | .fcRdSender b n | .fcRdReceiver b n | .fcRdSeq b n
  | .fcRdFlags b n | .fcRdIsAck b n | .fcRdNeedAck b n | .fcRdEnc b n | .fcRdCmdset b n | .fcRdCmdid b n
  | .fcRdPcrc b n => some (b, n)
  | .fcWrSof _ b n | .fcWrLen _ b n | .fcWrHcrc _ b n | .fcWrSender _ b n | .fcWrReceiver _ b n | .fcWrSeq _ b n
  | .fcWrFlags _ b n | .fcWrIsAck _ b n | .fcWrNeedAck _ b n | .fcWrEnc _ b n | .fcWrCmdset _ b n
  | .fcWrCmdid _ b n | .fcWrPcrc _ b n => some (b, n)
  | .fcValid b n | .fcFinh b n | .fcFinp b n | .fcPayload b n | .scan b n => some (b, n)
  | .raPush _ _ _ | .raFlush _ | .raStatus _ | .blkReset => none

/-- The view an operation may write to (20_memory R62): `FC.WR`, `FC.FINH` and `FC.FINP` only. -/
def mutatedViewOf : Instr → Option (Nat × Half)
  | .fcRdSof _ _ | .fcRdLen _ _ | .fcRdHcrc _ _ | .fcRdSender _ _ | .fcRdReceiver _ _ | .fcRdSeq _ _
  | .fcRdFlags _ _ | .fcRdIsAck _ _ | .fcRdNeedAck _ _ | .fcRdEnc _ _ | .fcRdCmdset _ _ | .fcRdCmdid _ _
  | .fcRdPcrc _ _ => none
  | .fcWrSof _ b n | .fcWrLen _ b n | .fcWrHcrc _ b n | .fcWrSender _ b n | .fcWrReceiver _ b n | .fcWrSeq _ b n
  | .fcWrFlags _ b n | .fcWrIsAck _ b n | .fcWrNeedAck _ b n | .fcWrEnc _ b n | .fcWrCmdset _ b n
  | .fcWrCmdid _ b n | .fcWrPcrc _ b n => some (b, n)
  | .fcFinh b n | .fcFinp b n => some (b, n)
  | .fcValid _ _ | .fcPayload _ _ | .scan _ _ => none
  | .raPush _ _ _ | .raFlush _ | .raStatus _ | .blkReset => none

/-- The channel an operation names (42_reassembler R220). -/
def chanOf : Instr → Option Nat
  | .fcRdSof _ _ | .fcRdLen _ _ | .fcRdHcrc _ _ | .fcRdSender _ _ | .fcRdReceiver _ _ | .fcRdSeq _ _
  | .fcRdFlags _ _ | .fcRdIsAck _ _ | .fcRdNeedAck _ _ | .fcRdEnc _ _ | .fcRdCmdset _ _ | .fcRdCmdid _ _
  | .fcRdPcrc _ _ => none
  | .fcWrSof _ _ _ | .fcWrLen _ _ _ | .fcWrHcrc _ _ _ | .fcWrSender _ _ _ | .fcWrReceiver _ _ _ | .fcWrSeq _ _ _
  | .fcWrFlags _ _ _ | .fcWrIsAck _ _ _ | .fcWrNeedAck _ _ _ | .fcWrEnc _ _ _ | .fcWrCmdset _ _ _
  | .fcWrCmdid _ _ _ | .fcWrPcrc _ _ _ => none
  | .fcValid _ _ | .fcFinh _ _ | .fcFinp _ _ | .fcPayload _ _ | .scan _ _ => none
  | .raPush c _ _ => some c
  | .raFlush c => some c
  | .raStatus c => some c
  | .blkReset => none

/-- The reserved and illegal command words of 30_encoding R106, said with the numbers of R99. -/
abbrev reservedWord (cw : CmdWord) : Prop :=
  cw.toNat % 256 ∉ [0x01, 0x02, 0x03, 0x04, 0x05, 0x06, 0x10, 0x20, 0x21, 0x22, 0x30] ∨
  cw.toNat / 4096 % 16 ≠ 0 ∨
  ((cw.toNat % 256 = 0x01 ∨ cw.toNat % 256 = 0x02) ∧ 13 ≤ cw.toNat / 256 % 16) ∨
  (cw.toNat % 256 ≠ 0x01 ∧ cw.toNat % 256 ≠ 0x02 ∧ cw.toNat / 256 % 16 ≠ 0) ∨
  (cw.toNat % 256 ≠ 0x02 ∧ cw.toNat % 256 ≠ 0x20 ∧ cw.toNat / 65536 ≠ 0)

/-- `t` holds a frame of declared length `len` at offset `k`, the first marker of `t` (41_scanner R201 (a)). -/
abbrev holdsFrame (t : List Byte) (k len : Nat) : Prop :=
  firstMarkerAt t k ∧ declaredLen t k = len ∧ 13 ≤ len ∧ len ≤ 1023 ∧ k + len ≤ t.length

/-- The request `r` is in flight and performed by the next step. -/
abbrev State.performsNext (s : State) (r : Request) : Prop := s.request = some r ∧ s.resetAsserted = false

end Sys2Proof.Machine
end

