-- ==== Sys2Proof/Certificates/Slice0/Obligations.lean ====
section
/-! DEFINITION. The statements about the machine, for the provers: def Obligations.<Name> : Prop. -/

open Sys2Proof Sys2Proof.Machine

/-- For every parameter choice p and every operation i whose operands fit the request record under p, decode (encode i) is i: no operand bit of any of the 35 encodings is dropped.
Rests on: R98, R99, R100, R101. -/
def Obligations.DecodeOfEncodeIsIdentity : Prop :=
  ∀ (p : Params) (i : Instr), i.wf p = true → decode (encode i) = .ok i

/-- If a request r decodes to i, then encode i has r's command word, decode (encode i) is i again, a view operand of i is r's base and vlen, a channel operand of i is r's chan, and the data of an RA.PUSH of k bytes are the first k data bytes of r.
Rests on: R98, R99, R100, R101. -/
def Obligations.DecodedRequestEncodesBack : Prop :=
  ∀ (r : Request) (i : Instr), decode r = .ok i →
    (encode i).cw = r.cw ∧ decode (encode i) = .ok i ∧
    (∀ base n, viewOf i = some (base, n) → base = r.base ∧ n = r.vlen) ∧
    (∀ c, chanOf i = some c → c = r.chan) ∧
    (∀ c k data, i = .raPush c k data → data = r.data.take k.toNat)

/-- For a request in flight whose command word is one of the five cases of R106, the step answers ERR_OP with an empty payload and changes nothing but the two ports; a request whose command word is none of them decodes to an operation.
Rules: R106. -/
def Obligations.ReservedWordsAnswerErrOp : Prop :=
  ∀ (s : State) (r : Request), s.performsNext r →
    (reservedWord r.cw → step s = .next ({ s with request := none }.answer .errOp .empty)) ∧
    (¬ reservedWord r.cw → ∃ i, decode r = .ok i)

/-- Sanity: 0x00000101 is FC.RD LEN, 0x00E00502 is FC.WR SEQ 0x00E0, 0x00000003 is FC.VALID, 0x00000010 is SCAN, 0x00090020 is RA.PUSH of 9 bytes, 0x00000030 is BLK.RESET, 0x00000D01 is refused.
Rests on: R108, R106, R132, R149, R157, R158, R196, R221, R235. -/
def Obligations.SpecWordsDecode : Prop :=
  decodeTableWord 32 0x00000101 = some (.fcRdLen 0 0) ∧ decodeTableWord 32 0x00E00502 = some (.fcWrSeq 0x00E0 0 0) ∧
    decodeTableWord 32 0x00000003 = some (.fcValid 0 0) ∧ decodeTableWord 32 0x00000010 = some (.scan 0 0) ∧
    decodeTableWord 32 0x00090020 = some (.raPush 0 9 []) ∧ decodeTableWord 32 0x00000030 = some .blkReset ∧
    decodeTableWord 32 0x00000D01 = none

/-- If request r is in flight, no reset event is asserted and r decodes to i, then step s is exec i of s with the request port empty; if r does not decode, step s is that state answering ERR_OP.
Rests on: R31, R40, R70, R106, R272. -/
def Obligations.StepPerformsDecodedRequest : Prop :=
  ∀ (s : State) (r : Request), s.performsNext r →
    (∀ i, decode r = .ok i → step s = exec i { s with request := none }) ∧
    (∀ e, decode r = .error e → step s = .next ({ s with request := none }.answer .errOp .empty))

/-- For every table word w that decodes to i, and every state s, step (s.withFetchWord 32 w) is exec i of that state with the request port taken. withFetchWord is the model's choice: it stands for the host issuing the request (log 8), with operand fields of 0 (log 5), and drops reset events from the front of the host's script (log 6).
Rests on: R31, R40. -/
def Obligations.FetchWordIsPerformedNext : Prop :=
  ∀ (s : State) (w : Nat) (i : Instr), decodeTableWord 32 w = some i →
    step (s.withFetchWord 32 w) = exec i { s.withFetchWord 32 w with request := none }

/-- On a legal view long enough for the field, each of the seven one-byte reads answers OK with the byte at the field's offset and changes nothing but the response port.
Rests on: R131, R133, R134, R135, R137, R141, R142. -/
def Obligations.OneByteFieldReads : Prop :=
  ∀ (s : State) (base : Nat) (n : Half), base + n.toNat ≤ 2 ^ s.params.addrW →
    (1 ≤ n.toNat → exec (.fcRdSof base n) s = .next (s.answer .ok (.value ((s.mem.read (base + 0)).setWidth 16)))) ∧
    (4 ≤ n.toNat → exec (.fcRdHcrc base n) s = .next (s.answer .ok (.value ((s.mem.read (base + 3)).setWidth 16)))) ∧
    (5 ≤ n.toNat → exec (.fcRdSender base n) s = .next (s.answer .ok (.value ((s.mem.read (base + 4)).setWidth 16)))) ∧
    (6 ≤ n.toNat → exec (.fcRdReceiver base n) s = .next (s.answer .ok (.value ((s.mem.read (base + 5)).setWidth 16)))) ∧
    (9 ≤ n.toNat → exec (.fcRdFlags base n) s = .next (s.answer .ok (.value ((s.mem.read (base + 8)).setWidth 16)))) ∧
    (10 ≤ n.toNat → exec (.fcRdCmdset base n) s = .next (s.answer .ok (.value ((s.mem.read (base + 9)).setWidth 16)))) ∧
    (11 ≤ n.toNat → exec (.fcRdCmdid base n) s = .next (s.answer .ok (.value ((s.mem.read (base + 10)).setWidth 16))))

/-- On a legal view of at least 3 bytes FC.RD LEN answers byte 1 plus 256 times the low two bits of byte 2, which is Lf(V); on one of at least 8 bytes FC.RD SEQ answers byte 6 plus 256 times byte 7. Nothing but the response port changes.
Rests on: R132, R136, R92, R94. -/
def Obligations.LenAndSeqReads : Prop :=
  ∀ (s : State) (base : Nat) (n : Half), base + n.toNat ≤ 2 ^ s.params.addrW →
    (3 ≤ n.toNat → ∃ v : Half, exec (.fcRdLen base n) s = .next (s.answer .ok (.value v)) ∧
      v.toNat = (s.mem.read (base + 1)).toNat + 256 * ((s.mem.read (base + 2)).toNat % 4) ∧ v.toNat = s.viewLen base) ∧
    (8 ≤ n.toNat → ∃ v : Half, exec (.fcRdSeq base n) s = .next (s.answer .ok (.value v)) ∧
      v.toNat = (s.mem.read (base + 6)).toNat + 256 * (s.mem.read (base + 7)).toNat)

/-- On a legal view of at least 9 bytes the three sub-field reads answer bit 7, bit 5 and bits 2:0 of the flag byte as numbers, and change nothing but the response port.
Rests on: R138, R139, R140, R95. -/
def Obligations.FlagBitReads : Prop :=
  ∀ (s : State) (base : Nat) (n : Half), base + n.toNat ≤ 2 ^ s.params.addrW → 9 ≤ n.toNat →
    (∃ v : Half, exec (.fcRdIsAck base n) s = .next (s.answer .ok (.value v)) ∧
      v.toNat = (s.mem.read (base + 8)).toNat / 128) ∧
    (∃ v : Half, exec (.fcRdNeedAck base n) s = .next (s.answer .ok (.value v)) ∧
      v.toNat = (s.mem.read (base + 8)).toNat / 32 % 2) ∧
    (∃ v : Half, exec (.fcRdEnc base n) s = .next (s.answer .ok (.value v)) ∧
      v.toNat = (s.mem.read (base + 8)).toNat % 8)

/-- On a legal view of n bytes whose declared length L has 13 ≤ L ≤ n, FC.RD PCRC answers byte L-2 plus 256 times byte L-1, and changes nothing but the response port.
Rests on: R143, R94. -/
def Obligations.PcrcRead : Prop :=
  ∀ (s : State) (base : Nat) (n : Half), base + n.toNat ≤ 2 ^ s.params.addrW →
    13 ≤ s.viewLen base → s.viewLen base ≤ n.toNat →
    ∃ v : Half, exec (.fcRdPcrc base n) s = .next (s.answer .ok (.value v)) ∧
      v.toNat = (s.mem.read (base + (s.viewLen base - 2))).toNat + 256 * (s.mem.read (base + (s.viewLen base - 1))).toNat

/-- For a value below 256 and a legal view long enough for the field, each of the seven one-byte writes answers OK, stores the value at the field's offset, and leaves every other byte of host memory and all other state as before.
Rests on: R144, R146, R147, R148, R150, R154, R155. -/
def Obligations.OneByteFieldWrites : Prop :=
  ∀ (s : State) (v : Half) (base : Nat) (n : Half), base + n.toNat ≤ 2 ^ s.params.addrW → v.toNat < 256 →
    (1 ≤ n.toNat → ∃ t, exec (.fcWrSof v base n) s = .next t ∧ storesExactly s t [(base + 0, v.toNat)]) ∧
    (4 ≤ n.toNat → ∃ t, exec (.fcWrHcrc v base n) s = .next t ∧ storesExactly s t [(base + 3, v.toNat)]) ∧
    (5 ≤ n.toNat → ∃ t, exec (.fcWrSender v base n) s = .next t ∧ storesExactly s t [(base + 4, v.toNat)]) ∧
    (6 ≤ n.toNat → ∃ t, exec (.fcWrReceiver v base n) s = .next t ∧ storesExactly s t [(base + 5, v.toNat)]) ∧
    (9 ≤ n.toNat → ∃ t, exec (.fcWrFlags v base n) s = .next t ∧ storesExactly s t [(base + 8, v.toNat)]) ∧
    (10 ≤ n.toNat → ∃ t, exec (.fcWrCmdset v base n) s = .next t ∧ storesExactly s t [(base + 9, v.toNat)]) ∧
    (11 ≤ n.toNat → ∃ t, exec (.fcWrCmdid v base n) s = .next t ∧ storesExactly s t [(base + 10, v.toNat)])

/-- On a legal view long enough, FC.WR LEN of a value below 1024 stores its low byte in byte 1 and its high two bits in bits 1:0 of byte 2, bits 7:2 kept; FC.WR SEQ stores low byte 6 and high byte 7. Every other byte and all other state is as before.
Rests on: R145, R149, R93. -/
def Obligations.LenAndSeqWrites : Prop :=
  ∀ (s : State) (v : Half) (base : Nat) (n : Half), base + n.toNat ≤ 2 ^ s.params.addrW →
    (v.toNat < 1024 → 3 ≤ n.toNat → ∃ t, exec (.fcWrLen v base n) s = .next t ∧
      storesExactly s t [(base + 1, v.toNat % 256),
        (base + 2, 4 * ((s.mem.read (base + 2)).toNat / 4) + v.toNat / 256)]) ∧
    (8 ≤ n.toNat → ∃ t, exec (.fcWrSeq v base n) s = .next t ∧
      storesExactly s t [(base + 6, v.toNat % 256), (base + 7, v.toNat / 256)])

/-- For a value that fits the sub-field and a legal view of at least 9 bytes, the three sub-field writes replace bit 7, bit 5 or bits 2:0 of byte 8, keep its other bits, and leave every other byte and all other state as before.
Rests on: R151, R152, R153. -/
def Obligations.FlagBitWrites : Prop :=
  ∀ (s : State) (v : Half) (base : Nat) (n : Half), base + n.toNat ≤ 2 ^ s.params.addrW → 9 ≤ n.toNat →
    (v.toNat < 2 → ∃ t, exec (.fcWrIsAck v base n) s = .next t ∧
      storesExactly s t [(base + 8, 128 * v.toNat + (s.mem.read (base + 8)).toNat % 128)]) ∧
    (v.toNat < 2 → ∃ t, exec (.fcWrNeedAck v base n) s = .next t ∧
      storesExactly s t [(base + 8, 64 * ((s.mem.read (base + 8)).toNat / 64) + 32 * v.toNat +
        (s.mem.read (base + 8)).toNat % 32)]) ∧
    (v.toNat < 8 → ∃ t, exec (.fcWrEnc v base n) s = .next t ∧
      storesExactly s t [(base + 8, 8 * ((s.mem.read (base + 8)).toNat / 8) + v.toNat)])

/-- On a legal view of n bytes whose declared length L has 13 ≤ L ≤ n, FC.WR PCRC stores the low byte at L-2 and the high byte at L-1, and leaves every other byte and all other state as before.
Rests on: R156. -/
def Obligations.PcrcWrite : Prop :=
  ∀ (s : State) (v : Half) (base : Nat) (n : Half), base + n.toNat ≤ 2 ^ s.params.addrW →
    13 ≤ s.viewLen base → s.viewLen base ≤ n.toNat →
    ∃ t, exec (.fcWrPcrc v base n) s = .next t ∧
      storesExactly s t [(base + (s.viewLen base - 2), v.toNat % 256), (base + (s.viewLen base - 1), v.toNat / 256)]

/-- FC.RD and (with a value that fits) FC.WR of every field, FC.FINH, FC.FINP and FC.PAYLOAD answer ERR_RANGE when the view is illegal or their range condition fails; FC.VALID and SCAN do so exactly when the view is illegal. Nothing but the response port changes.
Rests on: R274, R130, R61. -/
def Obligations.RangeFaults : Prop :=
  ∀ (s : State) (base : Nat) (n : Half),
    (∀ f : Field, (2 ^ s.params.addrW < base + n.toNat ∨ n.toNat < f.need ∨
        (f = .pcrc ∧ (s.viewLen base < 13 ∨ n.toNat < s.viewLen base))) →
      exec (f.rd base n) s = .next (s.answer .errRange .empty) ∧
      ∀ v : Half, v.toNat < 2 ^ f.width → exec (f.wr v base n) s = .next (s.answer .errRange .empty)) ∧
    ((2 ^ s.params.addrW < base + n.toNat ∨ n.toNat < 4) →
      exec (.fcFinh base n) s = .next (s.answer .errRange .empty)) ∧
    ((2 ^ s.params.addrW < base + n.toNat ∨ n.toNat < 3 ∨ s.viewLen base < 13 ∨ n.toNat < s.viewLen base) →
      exec (.fcFinp base n) s = .next (s.answer .errRange .empty) ∧
      exec (.fcPayload base n) s = .next (s.answer .errRange .empty)) ∧
    (2 ^ s.params.addrW < base + n.toNat →
      exec (.fcValid base n) s = .next (s.answer .errRange .empty) ∧
      exec (.scan base n) s = .next (s.answer .errRange .empty)) ∧
    (∀ t p, (exec (.fcValid base n) s = .next t ∨ exec (.scan base n) s = .next t) →
      t.response = some { status := .errRange, payload := p } → 2 ^ s.params.addrW < base + n.toNat)

/-- For every field f of width w, every value, view and state: FC.WR answers ERR_VALUE if and only if imm16 ≥ 2^w, whatever the view; then nothing but the response port changes. The widths are those of R273; the 16-bit fields can never raise it.
Rests on: R273. -/
def Obligations.ValueFaultExactlyWhenTooWide : Prop :=
  ∀ (f : Field) (v : Half) (base : Nat) (n : Half) (s t : State), exec (f.wr v base n) s = .next t →
    ((∃ p, t.response = some { status := .errValue, payload := p }) ↔ 2 ^ f.width ≤ v.toNat) ∧
    (2 ^ f.width ≤ v.toNat → t = s.answer .errValue .empty) ∧
    (f = .seq ∨ f = .pcrc → ∀ p, t.response ≠ some { status := .errValue, payload := p })

/-- For a request in flight: a reserved word answers ERR_OP; an FC.WR of a too wide value answers ERR_VALUE whatever its view; an RA.PUSH of more than FRAG_MAX bytes answers ERR_FRAG whatever the buffer; one within FRAG_MAX past ACC_CAP answers ERR_OVERFLOW; an FC.WR of a fitting value on an illegal or too short view answers ERR_RANGE.
Rules: R277. -/
def Obligations.FaultPriority : Prop :=
  ∀ (s : State) (r : Request), s.performsNext r →
    (reservedWord r.cw → step s = .next ({ s with request := none }.answer .errOp .empty)) ∧
    (∀ (f : Field) (v : Half) (base : Nat) (n : Half), decode r = .ok (f.wr v base n) →
      (2 ^ f.width ≤ v.toNat → step s = .next ({ s with request := none }.answer .errValue .empty)) ∧
      (v.toNat < 2 ^ f.width → (2 ^ s.params.addrW < base + n.toNat ∨ n.toNat < f.need) →
        step s = .next ({ s with request := none }.answer .errRange .empty))) ∧
    (∀ (c : Nat) (k : Half) (data : List Byte), decode r = .ok (.raPush c k data) →
      (s.params.fragMax < k.toNat → step s = .next ({ s with request := none }.answer .errFrag .empty)) ∧
      (k.toNat ≤ s.params.fragMax → s.params.accCap < (s.getChan c).buf.length + k.toNat →
        step s = .next ({ s with request := none }.answer .errOverflow .empty)))

/-- For all 35 operations: if exec answers a next state whose response has a status other than OK, that state is the old one with this status and an empty payload on the response port. The same of a step that performs a request in flight, an illegal word included: the next request is taken from a state that differs in the ports only.
Rules: R271. -/
def Obligations.FaultsChangeNothing : Prop :=
  (∀ (i : Instr) (s t : State) (e : Status) (p : Payload), exec i s = .next t →
    t.response = some { status := e, payload := p } → e ≠ .ok →
    p = .empty ∧ t = s.answer e .empty) ∧
  (∀ (s t : State) (r : Request) (e : Status) (p : Payload), s.performsNext r → step s = .next t →
    t.response = some { status := e, payload := p } → e ≠ .ok →
    p = .empty ∧ t = { s with request := none }.answer e .empty)

/-- For all 35 operations and all states, exec answers a next state (never a fault or a refusal of the model) whose response port holds one response record; the request port, the parameters and the host's script are as before.
Rests on: R41. -/
def Obligations.EveryOperationAnswersOnce : Prop :=
  ∀ (i : Instr) (s : State), ∃ (t : State) (r : Response), exec i s = .next t ∧ t.response = some r ∧
    t.request = s.request ∧ t.params = s.params ∧ t.host = s.host

/-- For all 35 operations: a byte of host memory that differs after exec lies inside the view of an FC.WR, FC.FINH or FC.FINP, and below 2^ADDR_W; and what RA.* and BLK.RESET do does not depend on host memory.
Rests on: R62. -/
def Obligations.OnlyMutatorsWriteInsideTheirView : Prop :=
  (∀ (i : Instr) (s t : State) (a : Nat), exec i s = .next t → t.mem.read a ≠ s.mem.read a →
      ∃ base n, mutatedViewOf i = some (base, n) ∧ base ≤ a ∧ a < base + n.toNat ∧ a < 2 ^ s.params.addrW) ∧
    (∀ (i : Instr) (s t : State) (m : Memory), viewOf i = none → exec i s = .next t →
      exec i { s with mem := m } = .next { t with mem := m })

/-- An operation that names channel c leaves every other channel and host memory unchanged, and its response and its effect on ch[c] depend only on ch[c] and the parameters; an operation that names none, but for BLK.RESET, changes no channel.
Rules: R36. -/
def Obligations.ChannelsAreIndependent : Prop :=
  (∀ (i : Instr) (s t : State) (c d : Nat), chanOf i = some c → exec i s = .next t → d ≠ c →
      t.getChan d = s.getChan d ∧ t.mem = s.mem) ∧
    (∀ (i : Instr) (s₁ s₂ t₁ t₂ : State) (c : Nat), chanOf i = some c → s₁.params = s₂.params →
      s₁.getChan c = s₂.getChan c → exec i s₁ = .next t₁ → exec i s₂ = .next t₂ →
      t₁.response = t₂.response ∧ t₁.getChan c = t₂.getChan c) ∧
    (∀ (i : Instr) (s t : State), chanOf i = none → i ≠ .blkReset → exec i s = .next t → t.chans = s.chans)

/-- If two states have the same parameters and agree on every byte of the view of an FC.* or SCAN operation, then the two responses are equal and the bytes of the view are equal afterwards; the operation changes no channel.
Rules: R37. -/
def Obligations.CodecAndScanDependOnlyOnTheirView : Prop :=
  ∀ (i : Instr) (s₁ s₂ t₁ t₂ : State) (base : Nat) (n : Half), viewOf i = some (base, n) → s₁.params = s₂.params →
    (∀ a, base ≤ a → a < base + n.toNat → s₁.mem.read a = s₂.mem.read a) →
    exec i s₁ = .next t₁ → exec i s₂ = .next t₂ →
    t₁.response = t₂.response ∧ (∀ a, base ≤ a → a < base + n.toNat → t₁.mem.read a = t₂.mem.read a) ∧
      t₁.chans = s₁.chans

/-- Whatever a step does (an operation, an illegal word, an act of the host, the reset event), the parameters and the choice of checksum functions are as before.
Rules: R39. -/
def Obligations.ParametersNeverChange : Prop :=
  ∀ (s t : State), step s = .next t → t.params = s.params

/-- On a legal view of n bytes, FC.VALID answers OK with a bit that is 1 if and only if n ≥ 13, byte 0 is MARKER, the declared length L has 13 ≤ L ≤ n, byte 3 is CK8 of bytes 0..2, and bytes L-2, L-1 are CK16 of bytes 0..L-3, little-endian. Nothing but the response port changes.
Rests on: R158, R91, R96. -/
def Obligations.ValidDecidesValidity : Prop :=
  ∀ (s : State) (base : Nat) (n : Half), base + n.toNat ≤ 2 ^ s.params.addrW →
    ∃ b, exec (.fcValid base n) s = .next (s.answer .ok (.valid b)) ∧
      (b = true ↔ 13 ≤ n.toNat ∧ s.mem.read base = 0x55#8 ∧ s.viewLen base ≤ n.toNat ∧ 13 ≤ s.viewLen base ∧
        ck8 s.params.ck 0x77#8 [s.mem.read base, s.mem.read (base + 1), s.mem.read (base + 2)] = s.mem.read (base + 3) ∧
        ∀ t : List Byte, t.length = s.viewLen base - 2 → bytesAt s base t →
          (ck16 s.params.ck 0x3692#16 t).toNat = (s.mem.read (base + (s.viewLen base - 2))).toNat +
            256 * (s.mem.read (base + (s.viewLen base - 1))).toNat)

/-- On a legal view of at least 4 bytes, FC.FINH answers OK, stores CK8(SEED8, bytes 0..2) in byte 3, and leaves every other byte and all other state as before, even when byte 0 is not MARKER.
Rests on: R159, R96. -/
def Obligations.FinhStoresHeaderChecksum : Prop :=
  ∀ (s : State) (base : Nat) (n : Half), base + n.toNat ≤ 2 ^ s.params.addrW → 4 ≤ n.toNat →
    ∃ t, exec (.fcFinh base n) s = .next t ∧
      storesExactly s t [(base + 3,
        (ck8 s.params.ck 0x77#8 [s.mem.read base, s.mem.read (base + 1), s.mem.read (base + 2)]).toNat)]

/-- On a legal view of n bytes whose declared length L has 13 ≤ L ≤ n, FC.FINP answers OK, stores CK16(SEED16, bytes 0..L-3) little-endian in bytes L-2 and L-1, and leaves every other byte and all other state as before.
Rests on: R160, R96. -/
def Obligations.FinpStoresTrailingChecksum : Prop :=
  ∀ (s : State) (base : Nat) (n : Half) (b : List Byte), base + n.toNat ≤ 2 ^ s.params.addrW →
    13 ≤ s.viewLen base → s.viewLen base ≤ n.toNat → b.length = s.viewLen base - 2 → bytesAt s base b →
    ∃ t, exec (.fcFinp base n) s = .next t ∧
      storesExactly s t [(base + (s.viewLen base - 2), (ck16 s.params.ck 0x3692#16 b).toNat % 256),
        (base + (s.viewLen base - 1), (ck16 s.params.ck 0x3692#16 b).toNat / 256)]

/-- On a legal view of n bytes whose declared length L has 13 ≤ L ≤ n, FC.PAYLOAD answers OK with addr = base + 11 and len = L - 13; nothing but the response port changes.
Rests on: R161. -/
def Obligations.PayloadGivesSpan : Prop :=
  ∀ (s : State) (base : Nat) (n : Half), base + n.toNat ≤ 2 ^ s.params.addrW →
    13 ≤ s.viewLen base → s.viewLen base ≤ n.toNat →
    exec (.fcPayload base n) s = .next (s.answer .ok (.span (base + 11) (s.viewLen base - 13)))

/-- On a legal view whose byte 0 is MARKER and whose declared length L has 13 ≤ L ≤ n, FC.FINH and then FC.FINP answer next states, after which FC.VALID answers 1 and SCAN of the view answers the outcome OK with frame_len L, consumed L and frame_addr base.
Rests on: R164, R305, R109, R202. -/
def Obligations.FinalizeMakesFrameValid : Prop :=
  ∀ (s : State) (base : Nat) (n : Half), base + n.toNat ≤ 2 ^ s.params.addrW → s.mem.read base = 0x55#8 →
    13 ≤ s.viewLen base → s.viewLen base ≤ n.toNat →
    ∃ t u, exec (.fcFinh base n) s = .next t ∧ exec (.fcFinp base n) t = .next u ∧
      exec (.fcValid base n) u = .next (u.answer .ok (.valid true)) ∧
      exec (.scan base n) u = .next (u.answer .ok
        (.scan { kind := .ok, missing := 0, consumed := s.viewLen base, frameLen := s.viewLen base } base))

/-- For each of the 13 fields: if FC.WR of a value answers OK, then FC.RD of that field on that view, in the state after, answers OK with that value.
Rests on: R164. -/
def Obligations.ReadReturnsWrittenValue : Prop :=
  ∀ (f : Field) (v : Half) (base : Nat) (n : Half) (s t : State), exec (f.wr v base n) s = .next t →
    t.response = some { status := .ok, payload := .empty } →
    exec (f.rd base n) t = .next (t.answer .ok (.value v))

/-- For fields f and g that are not the same field, not FLAGS and one of its sub-fields, and not LEN and PCRC: after an FC.WR of f (whatever it answered), FC.RD of g on the same view answers what it answered before.
Rests on: R165. -/
def Obligations.FieldWritesAreIndependent : Prop :=
  ∀ (f g : Field) (v : Half) (base : Nat) (n : Half) (s t : State), ¬ f.affects g →
    exec (f.wr v base n) s = .next t →
    ∃ e p, exec (g.rd base n) s = .next (s.answer e p) ∧ exec (g.rd base n) t = .next (t.answer e p)

/-- On a legal view whose bytes are the list b, SCAN answers OK with the record of ScanCore(b): OK(L, consumed) gives (missing 0, consumed, frame_len L) and frame_addr base + (consumed - L), NEED_MORE gives (missing, consumed, 0), BAD_HCRC and BAD_PCRC give (0, consumed, 0), NO_SOF gives (0, 0, 0), each with frame_addr 0; nothing but the response port changes. The record of any outcome, in a trace too, has these fields, its consumed where the count is below 2^16.
Rests on: R196, R103. -/
def Obligations.ScanAnswersScanCore : Prop :=
  (∀ (s : State) (base : Nat) (n : Half) (b : List Byte), base + n.toNat ≤ 2 ^ s.params.addrW → b.length = n.toNat →
    bytesAt s base b →
    exec (.scan base n) s = .next (s.answer .ok
      (match scanCore s.params.ck b with
      | .ok len consumed =>
        .scan { kind := .ok, missing := 0, consumed := consumed, frameLen := len } (base + (consumed - len))
      | .noSof => .scan { kind := .noSof, missing := 0, consumed := 0, frameLen := 0 } 0
      | .needMore missing consumed =>
        .scan { kind := .needMore, missing := missing, consumed := consumed, frameLen := 0 } 0
      | .badHcrc consumed => .scan { kind := .badHcrc, missing := 0, consumed := consumed, frameLen := 0 } 0
      | .badPcrc consumed => .scan { kind := .badPcrc, missing := 0, consumed := consumed, frameLen := 0 } 0))) ∧
  ∀ r : Scan,
    match r with
    | .ok len consumed => r.record.kind = .ok ∧ r.record.missing = 0 ∧ r.record.frameLen = len ∧
        (consumed < 2 ^ 16 → r.record.consumed = consumed)
    | .noSof => r.record = { kind := .noSof, missing := 0, consumed := 0, frameLen := 0 }
    | .needMore missing consumed => r.record.kind = .needMore ∧ r.record.missing = missing ∧ r.record.frameLen = 0 ∧
        (consumed < 2 ^ 16 → r.record.consumed = consumed)
    | .badHcrc consumed => r.record.kind = .badHcrc ∧ r.record.missing = 0 ∧ r.record.frameLen = 0 ∧
        (consumed < 2 ^ 16 → r.record.consumed = consumed)
    | .badPcrc consumed => r.record.kind = .badPcrc ∧ r.record.missing = 0 ∧ r.record.frameLen = 0 ∧
        (consumed < 2 ^ 16 → r.record.consumed = consumed)

/-- Without a marker the outcome is NO_SOF; with the first marker at off: under 4 bytes NEED_MORE(4 - avail, off); else a wrong header checksum BAD_HCRC(off + 3); else L < 13 BAD_PCRC(off + 3); else avail < L NEED_MORE(L - avail, off); else, where CK16(0x3692, bytes off..off+L-3) is not byte off+L-2 plus 256 times byte off+L-1, BAD_PCRC(off + 3); else OK(L, off + L).
Rules: R188. -/
def Obligations.ScanCoreFollowsSteps : Prop :=
  ∀ (ck : CkChoice) (t : List Byte),
    ((∀ b ∈ t, b ≠ 0x55#8) → scanCore ck t = .noSof) ∧
    ∀ off len, firstMarkerAt t off →
      len = (byteAt t (off + 1)).toNat + 256 * ((byteAt t (off + 2)).toNat % 4) →
      scanCore ck t =
        if t.length - off < 4 then .needMore (4 - (t.length - off)) off
        else if ck8 ck 0x77#8 [byteAt t off, byteAt t (off + 1), byteAt t (off + 2)] ≠ byteAt t (off + 3) then
          .badHcrc (off + 3)
        else if len < 13 then .badPcrc (off + 3)
        else if t.length - off < len then .needMore (len - (t.length - off)) off
        else if (ck16 ck 0x3692#16 ((t.drop off).take (len - 2))).toNat ≠
            (byteAt t (off + len - 2)).toNat + 256 * (byteAt t (off + len - 1)).toNat then
          .badPcrc (off + 3)
        else .ok len (off + len)

/-- OK has 13 ≤ L ≤ 1023 and consumed = off + L ≤ |t|; BAD_HCRC and BAD_PCRC have consumed = off + 3 ≤ |t| - 1; NEED_MORE has consumed = off ≤ |t| - 1 and 1 ≤ missing ≤ 1019; NO_SOF reports 0; off is the first marker; so OK, BAD_HCRC and BAD_PCRC consume at least 3 and at most |t| bytes.
Rules: R198. -/
def Obligations.ScanOutcomeBounds : Prop :=
  ∀ (ck : CkChoice) (t : List Byte),
    match scanCore ck t with
    | .ok len consumed => 13 ≤ len ∧ len ≤ 1023 ∧ consumed ≤ t.length ∧ 3 ≤ consumed ∧
        ∃ off, firstMarkerAt t off ∧ consumed = off + len
    | .badHcrc consumed => consumed + 1 ≤ t.length ∧ 3 ≤ consumed ∧ ∃ off, firstMarkerAt t off ∧ consumed = off + 3
    | .badPcrc consumed => consumed + 1 ≤ t.length ∧ 3 ≤ consumed ∧ ∃ off, firstMarkerAt t off ∧ consumed = off + 3
    | .needMore missing consumed => consumed + 1 ≤ t.length ∧ firstMarkerAt t consumed ∧ 1 ≤ missing ∧ missing ≤ 1019
    | .noSof => (scanCore ck t).record.consumed = 0

/-- For t' = t ++ u: an OK, BAD_HCRC or BAD_PCRC of t is the outcome of t'; NEED_MORE(m, off) with |u| < m becomes NEED_MORE(m - |u|, off); with |u| ≥ m the marker of t' is at the same off; after NO_SOF of t every marker of t' is at an index ≥ |t|.
Rules: R200. -/
def Obligations.ScanPrefixStability : Prop :=
  ∀ (ck : CkChoice) (t u : List Byte),
    (∀ len consumed, scanCore ck t = .ok len consumed → scanCore ck (t ++ u) = .ok len consumed) ∧
    (∀ consumed, scanCore ck t = .badHcrc consumed → scanCore ck (t ++ u) = .badHcrc consumed) ∧
    (∀ consumed, scanCore ck t = .badPcrc consumed → scanCore ck (t ++ u) = .badPcrc consumed) ∧
    (∀ m off, scanCore ck t = .needMore m off →
      (u.length < m → scanCore ck (t ++ u) = .needMore (m - u.length) off) ∧
      (m ≤ u.length → firstMarkerAt (t ++ u) off)) ∧
    (scanCore ck t = .noSof → (∀ b ∈ t, b ≠ 0x55#8) ∧ ∀ off, firstMarkerAt (t ++ u) off → t.length ≤ off)

/-- If t holds a frame of declared length L at its first marker k: (a) ScanCore answers OK(L, k + L) iff both checks hold; if they hold: (b) a bit flip in bytes k+1..k+3 gives BAD_HCRC(k + 3), (c) one in bytes k+4..k+L-1 gives BAD_PCRC(k + 3), each provided that, where a covered byte flips, the checksum of the covered bytes changes (R185 assumes it does); a flip of byte k leaves no marker there. (d) A right header whose L ≥ 13 points past the end gives NEED_MORE(L - avail, off).
Rests on: R201, R185. -/
def Obligations.ScanFindsEmbeddedFrame : Prop :=
  ∀ (ck : CkChoice) (t : List Byte) (k len : Nat),
    (holdsFrame t k len →
      (scanCore ck t = .ok len (k + len) ↔ hdrOk ck t k = true ∧ pktOk ck t k len = true) ∧
      (hdrOk ck t k = true → pktOk ck t k len = true → ∀ i j, j < 8 →
        (k + 1 ≤ i → i ≤ k + 3 →
          (i < k + 3 → ck8 ck 0x77#8 (slice (flipBit t i j) k (k + 3)) ≠ ck8 ck 0x77#8 (slice t k (k + 3))) →
          scanCore ck (flipBit t i j) = .badHcrc (k + 3)) ∧
        (k + 4 ≤ i → i < k + len →
          (i < k + len - 2 →
            ck16 ck 0x3692#16 (slice (flipBit t i j) k (k + len - 2)) ≠ ck16 ck 0x3692#16 (slice t k (k + len - 2))) →
          scanCore ck (flipBit t i j) = .badPcrc (k + 3)) ∧
        (i = k → ¬ firstMarkerAt (flipBit t i j) k))) ∧
    (firstMarkerAt t k → 4 ≤ t.length - k → hdrOk ck t k = true → 13 ≤ declaredLen t k →
      t.length - k < declaredLen t k → scanCore ck t = .needMore (declaredLen t k - (t.length - k)) k)

/-- If SCAN answers an OK outcome with frame_addr and frame_len, then in every state with the same parameters and the same bytes there, FC.VALID frame_addr, frame_len answers 1.
Rules: R202. -/
def Obligations.ScannedFramesAreValid : Prop :=
  ∀ (s t u : State) (base : Nat) (n : Half) (r : ScanRecord) (addr : Nat), exec (.scan base n) s = .next t →
    t.response = some { status := .ok, payload := .scan r addr } → r.kind = .ok → u.params = s.params →
    (∀ a, addr ≤ a → a < addr + r.frameLen → u.mem.read a = s.mem.read a) →
    exec (.fcValid addr (BitVec.ofNat 16 r.frameLen)) u = .next (u.answer .ok (.valid true))

/-- For k ≤ FRAG_MAX and a buffer with room, with d the k bytes of the fragment (a byte not listed being 0, log 5): RA.PUSH answers OK; with a hint above the new length it holds the bytes, keeps the hint and answers empty lists; else the channel, frames and trace are those of the loop over the whole buffer. Other channels, host memory and all other state are as before.
Rests on: R221, R224, R225, R226. -/
def Obligations.PushAppendsAndScans : Prop :=
  ∀ (s : State) (c : Nat) (k : Half) (data d : List Byte), k.toNat ≤ s.params.fragMax →
    (s.getChan c).buf.length + k.toNat ≤ s.params.accCap → d.length = k.toNat →
    (∀ i, i < k.toNat → byteAt d i = byteAt data i) →
    ∃ t, exec (.raPush c k data) s = .next t ∧ t = { s with chans := t.chans, response := t.response } ∧
      (∀ c', c' ≠ c → t.getChan c' = s.getChan c') ∧
      ((∃ h, (s.getChan c).hint = some h ∧ (s.getChan c).buf.length + k.toNat < h) →
        t.getChan c = { buf := (s.getChan c).buf ++ d, hint := (s.getChan c).hint } ∧
        t.response = some { status := .ok, payload := .push [] [] }) ∧
      ((∀ h, (s.getChan c).hint = some h → h ≤ (s.getChan c).buf.length + k.toNat) →
        t.getChan c = (drain s.params.ck c ((s.getChan c).buf ++ d)).chan ∧
        t.response = some
          { status := .ok
            payload := .push (drain s.params.ck c ((s.getChan c).buf ++ d)).frames
              (drain s.params.ck c ((s.getChan c).buf ++ d)).trace })

/-- For every buffer: on OK(L, consumed) the frame is the L bytes ending at consumed, consumed bytes are dropped and the loop goes on; on NEED_MORE(missing, consumed) consumed bytes are dropped, the hint is missing plus what is left, and the loop ends; on NO_SOF the buffer is emptied; on BAD_HCRC and BAD_PCRC consumed bytes are dropped and the loop goes on. After NEED_MORE the hint is 4 or the declared length.
Rules: R227, R228, R229, R230. -/
def Obligations.DrainFollowsRecoverySteps : Prop :=
  ∀ (ck : CkChoice) (c : Nat) (buf : List Byte),
    (drain ck c buf =
      match scanCore ck buf with
      | .ok len consumed =>
        { chan := (drain ck c (buf.drop consumed)).chan
          frames := { chan := c, len := len, bytes := slice buf (consumed - len) consumed } ::
            (drain ck c (buf.drop consumed)).frames
          trace := (scanCore ck buf).record :: (drain ck c (buf.drop consumed)).trace }
      | .needMore missing consumed =>
        { chan := { buf := buf.drop consumed, hint := some (missing + (buf.length - consumed)) }
          frames := []
          trace := [(scanCore ck buf).record] }
      | .noSof => { chan := { buf := [], hint := none }, frames := [], trace := [(scanCore ck buf).record] }
      | .badHcrc consumed =>
        { chan := (drain ck c (buf.drop consumed)).chan
          frames := (drain ck c (buf.drop consumed)).frames
          trace := (scanCore ck buf).record :: (drain ck c (buf.drop consumed)).trace }
      | .badPcrc consumed =>
        { chan := (drain ck c (buf.drop consumed)).chan
          frames := (drain ck c (buf.drop consumed)).frames
          trace := (scanCore ck buf).record :: (drain ck c (buf.drop consumed)).trace }) ∧
    (∀ missing consumed, scanCore ck buf = .needMore missing consumed →
      missing + (buf.length - consumed) = 4 ∨
        (4 ≤ buf.length - consumed ∧ missing + (buf.length - consumed) = declaredLen buf consumed))

/-- With k > FRAG_MAX the push answers ERR_FRAG; with k ≤ FRAG_MAX and a buffer that would pass ACC_CAP it answers ERR_OVERFLOW; nothing but the response port changes.
Rests on: R222, R223, R275, R276. -/
def Obligations.PushFaultsOnSizeAndCapacity : Prop :=
  ∀ (s : State) (c : Nat) (k : Half) (data : List Byte),
    (s.params.fragMax < k.toNat → exec (.raPush c k data) s = .next (s.answer .errFrag .empty)) ∧
    (k.toNat ≤ s.params.fragMax → s.params.accCap < (s.getChan c).buf.length + k.toNat →
      exec (.raPush c k data) s = .next (s.answer .errOverflow .empty))

/-- Every outcome that continues the loop drops at least 3 and at most all bytes; the trace has at most floor(B / 3) + 1 entries and the frames list at most floor(B / 13).
Rules: R236. -/
def Obligations.PushScanBounds : Prop :=
  ∀ (ck : CkChoice) (c : Nat) (buf : List Byte),
    (drain ck c buf).trace.length ≤ buf.length / 3 + 1 ∧ (drain ck c buf).frames.length ≤ buf.length / 13 ∧
    ∀ consumed, (∃ len, scanCore ck buf = .ok len consumed) ∨ scanCore ck buf = .badHcrc consumed ∨
      scanCore ck buf = .badPcrc consumed → 3 ≤ consumed ∧ consumed ≤ buf.length

/-- Each delivered frame carries its channel, has len bytes with 13 ≤ len ≤ 1023, and ScanCore of its bytes is OK(len, len); the bytes of the frames, one after another, are a subsequence of the buffer.
Rests on: R231, R227. -/
def Obligations.DeliveredFramesAreWholeAndInOrder : Prop :=
  ∀ (ck : CkChoice) (c : Nat) (buf : List Byte),
    (∀ f ∈ (drain ck c buf).frames, f.chan = c ∧ f.len = f.bytes.length ∧ 13 ≤ f.len ∧ f.len ≤ 1023 ∧
      scanCore ck f.bytes = .ok f.len f.len) ∧
    ((drain ck c buf).frames.map Frame.bytes).flatten.Sublist buf

/-- For every state and channel RA.FLUSH answers OK with an empty payload; the channel's buffer is empty and its hint None; every other channel and all other state is as before.
Rests on: R233. -/
def Obligations.FlushEmptiesItsChannel : Prop :=
  ∀ (s : State) (c : Nat), ∃ t, exec (.raFlush c) s = .next t ∧
    t = { s with chans := t.chans, response := some { status := .ok, payload := .empty } } ∧
    t.getChan c = { buf := [], hint := none } ∧ ∀ c', c' ≠ c → t.getChan c' = s.getChan c'

/-- RA.STATUS answers OK with the length of the buffer, and hint_valid 1 with the hint's value, or hint_valid 0 with 0 when there is none; nothing but the response port changes.
Rests on: R234, R105. -/
def Obligations.StatusReportsChannel : Prop :=
  ∀ (s : State) (c : Nat),
    ((s.getChan c).hint = none →
      exec (.raStatus c) s = .next (s.answer .ok (.status (s.getChan c).buf.length false 0))) ∧
    (∀ h, (s.getChan c).hint = some h →
      exec (.raStatus c) s = .next (s.answer .ok (.status (s.getChan c).buf.length true h)))

/-- For every state BLK.RESET answers OK with an empty payload; every channel is empty without a hint, as after the reset event; all other state is as before; RA.STATUS of any channel then answers (0, 0, 0).
Rules: R302. -/
def Obligations.BlkResetMakesEveryChannelIdle : Prop :=
  ∀ (s : State), ∃ t, exec .blkReset s = .next t ∧
    t = { s.onResetEvent with request := s.request, response := some { status := .ok, payload := .empty } } ∧
    (∀ c, t.getChan c = { buf := [], hint := none }) ∧
    ∀ c, exec (.raStatus c) t = .next (t.answer .ok (.status 0 false 0))

/-- When the outside asserts the reset event, whatever request is in flight, the step leaves every channel empty without a hint, no response pending and no request in flight; host memory and the parameters are as before. That the event stands first in the host's script, comes before the request in flight and is taken off the script is the model's choice (log 6).
Rests on: R300. -/
def Obligations.ResetEventDropsRequest : Prop :=
  ∀ (s : State) (rest : List HostAct), s.host = .resetEvent :: rest →
    ∃ t, step s = .next t ∧ (∀ c, t.getChan c = { buf := [], hint := none }) ∧ t.response = none ∧ t.request = none ∧
      t.mem = s.mem ∧ t.params = s.params ∧ t.host = rest

/-- State.reset has an empty buffer and no hint for every channel identifier, no response pending and no request in flight. (Its parameters and memory contents are the model's, logs 2 and 4, and are not part of this statement.)
Rests on: R44, R33. -/
def Obligations.ResetStateIsIdle : Prop :=
  (∀ c, State.reset.getChan c = { buf := [], hint := none }) ∧ State.reset.response = none ∧ State.reset.request = none

/-- State.reset has host memory and the channel table in canonical form and in range, every channel in a state of R237, and no request that does not fit.
Rests on: R44, R237. -/
def Obligations.ResetMeetsInvariant : Prop :=
  State.reset.Inv

/-- For every state that meets State.Inv (memory and channel table in canonical form, addresses below 2^ADDR_W, channels below 2^CHAN_ID_W, every channel in IDLE, WAIT_HDR or WAIT_BODY, a request in flight fits its port), and every step of block, host or reset event to a next state, that state meets it too.
Rests on: R60, R61, R98, R220, R237. -/
def Obligations.StepKeepsInvariant : Prop :=
  ∀ (s t : State), s.Inv → step s = .next t → t.Inv

/-- After every step from a state that meets the invariant, each channel is in exactly one state of R237; a non-empty buffer has a hint, and a buffer with a hint starts with the marker and is shorter than the hint.
Rules: R237. -/
def Obligations.ChannelStatesAreExact : Prop :=
  ∀ (s t : State), s.Inv → step s = .next t → ∀ c,
    (∃ ph, (t.getChan c).inPhase t.params.ck ph ∧ ∀ ph', (t.getChan c).inPhase t.params.ck ph' → ph' = ph) ∧
    ((t.getChan c).buf ≠ [] → ∃ h, (t.getChan c).hint = some h) ∧
    (∀ h, (t.getChan c).hint = some h → byteAt (t.getChan c).buf 0 = 0x55#8 ∧ (t.getChan c).buf.length < h)

/-- In a state that meets the invariant every buffer holds at most 1022 bytes and, inside a push of k ≤ FRAG_MAX bytes, at most 1022 + FRAG_MAX; under the constraints of R7 no RA.PUSH ever answers ERR_OVERFLOW.
Rules: R238. -/
def Obligations.BufferBoundAndNoOverflow : Prop :=
  ∀ (s : State) (c : Nat), s.Inv →
    (s.getChan c).buf.length ≤ 1022 ∧
    ∀ (k : Half) (data : List Byte),
      (k.toNat ≤ s.params.fragMax → ((s.getChan c).buf ++ fragment data k).length ≤ 1022 + s.params.fragMax) ∧
      (s.params.legal → ∀ t p, exec (.raPush c k data) s = .next t →
        t.response ≠ some { status := .errOverflow, payload := p })

/-- For a channel in a state of R237 with hint h, and a fragment after which the buffer is still below h: ScanCore of the buffer is NEED_MORE(h - |buf|, 0), and the recovery loop would leave the same channel and no frames, as the shut gate does.
Rules: R239. -/
def Obligations.HintGateChangesOnlyTheTrace : Prop :=
  ∀ (ck : CkChoice) (c : Nat) (ch : Chan) (ph : ChanPhase) (d : List Byte) (h : Nat), ch.inPhase ck ph →
    ch.hint = some h → (ch.buf ++ d).length < h →
    scanCore ck (ch.buf ++ d) = .needMore (h - (ch.buf ++ d).length) 0 ∧
    (pushFragment ck c ch d).chan = (drain ck c (ch.buf ++ d)).chan ∧
    (pushFragment ck c ch d).frames = (drain ck c (ch.buf ++ d)).frames

/-- Under legal parameters, pushing any list of fragments of at most FRAG_MAX bytes each, one after another, onto an IDLE channel succeeds; the frames of all pushes, joined, and the channel's state after the last are those of one run of the recovery loop over the joined bytes.
Rules: R240. -/
def Obligations.ChunkingDoesNotChangeFrames : Prop :=
  ∀ (s : State) (c : Nat) (ds : List (List Byte)), s.params.legal → s.getChan c = { buf := [], hint := none } →
    (∀ d ∈ ds, d.length ≤ s.params.fragMax) →
    ∃ r, runPushes c ds s = some r ∧ r.frames = (drain s.params.ck c ds.flatten).frames ∧
      r.state.getChan c = (drain s.params.ck c ds.flatten).chan

/-- The last scan of the loop over any buffer is NO_SOF and the channel is IDLE, or it is NEED_MORE and the channel is in WAIT_HDR or WAIT_BODY(L).
Rests on: R244, R245. -/
def Obligations.PushLoopEndsIdleOrWaiting : Prop :=
  ∀ (ck : CkChoice) (c : Nat) (buf : List Byte), ∃ r, (drain ck c buf).trace.getLast? = some r ∧
    ((r.kind = .noSof ∧ (drain ck c buf).chan.inPhase ck .idle) ∨
     (r.kind = .needMore ∧ ((drain ck c buf).chan.inPhase ck .waitHdr ∨
       ∃ len, (drain ck c buf).chan.inPhase ck (.waitBody len))))

/-- Started in CHECK on any channel state, the machine of R245 reaches DONE with the channel, frames and trace of the atomic push when the two size checks pass, and DONE_FAULT with the channel unchanged and the same status when one fails.
Rests on: R245, R221. -/
def Obligations.PushMachineRefinesPush : Prop :=
  ∀ (p : Params) (c : Nat) (k : Half) (data : List Byte) (ch : Chan),
    (k.toNat ≤ p.fragMax → ch.buf.length + k.toNat ≤ p.accCap →
      ∃ m, (pushMachineStep p c k.toNat (fragment data k))^[m] (pushStart ch) =
        { stage := .done, chan := (pushFragment p.ck c ch (fragment data k)).chan
          frames := (pushFragment p.ck c ch (fragment data k)).frames
          trace := (pushFragment p.ck c ch (fragment data k)).trace }) ∧
    (p.fragMax < k.toNat → pushMachineStep p c k.toNat (fragment data k) (pushStart ch) =
      { stage := .doneFault .errFrag, chan := ch, frames := [], trace := [] }) ∧
    (k.toNat ≤ p.fragMax → p.accCap < ch.buf.length + k.toNat →
      pushMachineStep p c k.toNat (fragment data k) (pushStart ch) =
        { stage := .doneFault .errOverflow, chan := ch, frames := [], trace := [] })

/-- In a state that meets the invariant, under legal parameters, the payload of every response of a well-formed operation fits the widths of R102 to R105. (For a trace entry's consumed the width holds because a count that does not fit is a free 16-bit value, log 10, the model's choice.)
Rests on: R102, R103, R104, R105. -/
def Obligations.ResponsesFitTheirRecord : Prop :=
  ∀ (i : Instr) (s t : State) (r : Response), s.Inv → s.params.legal → i.wf s.params = true → exec i s = .next t →
    t.response = some r → r.payload.fits t.params = true

/-- With no request in flight: an empty script leaves the state as it is (log 11); a host store inside host memory stores exactly its bytes; an issued request puts on the port a record that fits it, with the request's cw and vlen, its base and chan where they fit their fields, and its first FRAG_MAX data bytes, so a request that fits is put there as it is; reading takes the response off its port (log 7). The script is the model's choice (log 6), and so is what a field holds for a number that does not fit it, a free value (log 19).
Rests on: R13, R38, R40, R41, R73, R98, R109, R280, R288. -/
def Obligations.HostActsBetweenOperations : Prop :=
  ∀ (s : State), s.request = none →
    (s.host = [] → step s = .next s) ∧
    (∀ addr bytes rest, s.host = .store addr bytes :: rest → addr + bytes.length ≤ 2 ^ s.params.addrW →
      ∃ t, step s = .next t ∧ t = { s with mem := t.mem, host := rest } ∧
        (∀ i, i < bytes.length → t.mem.read (addr + i) = byteAt bytes i) ∧
        ∀ a, a < addr ∨ addr + bytes.length ≤ a → t.mem.read a = s.mem.read a) ∧
    (∀ r rest, s.host = .issue r :: rest →
      ∃ q : Request, step s = .next { s with request := some q, host := rest } ∧ q.fits s.params = true ∧ q.cw = r.cw ∧
        q.vlen = r.vlen ∧ (r.base < 2 ^ s.params.addrW → q.base = r.base) ∧
        (r.chan < 2 ^ s.params.chanIdW → q.chan = r.chan) ∧ q.data = r.data.take s.params.fragMax ∧
        (r.fits s.params = true → q = r)) ∧
    (∀ rest, s.host = .readResponse :: rest → step s = .next { s with response := none, host := rest })

/-- step never answers a refusal; it answers a fault exactly when no request is in flight and the host's next act is a store outside the 2^ADDR_W bytes of host memory. This stop is the model's choice (log 9).
Rests on: R60, R271. -/
def Obligations.OnlyHostErrorsStop : Prop :=
  ∀ (s : State), (∀ r, step s ≠ .refused r) ∧
    ∀ e, step s = .fault e ↔ s.request = none ∧ e = .hostStoreOutsideMemory ∧
      ∃ addr bytes rest, s.host = .store addr bytes :: rest ∧ 2 ^ s.params.addrW < addr + bytes.length

/-- For the recommended instances and for every other choice, CK8 and CK16 give 0x75, 0xF0FA, 0x66 and 0xE8C2 on the four vectors of R184.
Rules: R184. -/
def Obligations.EveryChecksumChoiceMeetsVectors : Prop :=
  ∀ ck : CkChoice,
    ck8 ck 0x77#8 [0x55, 0x1B, 0x04] = 0x75#8 ∧
    ck16 ck 0x3692#16
      [0x55, 0x1B, 0x04, 0x75, 0x09, 0xC3, 0xE0, 0x00, 0x00, 0x3F, 0x60, 0x00, 0x04, 0x20, 0x00, 0x01, 0x00, 0x40, 0x00,
        0x02, 0x10, 0x04, 0x03, 0x00, 0x04] = 0xF0FA#16 ∧
    ck8 ck 0x77#8 [0x55, 0x0E, 0x04] = 0x66#8 ∧
    ck16 ck 0x3692#16 [0x55, 0x0E, 0x04, 0x66, 0x09, 0x03, 0x4E, 0x06, 0xA0, 0x48, 0x08, 0x01] = 0xE8C2#16

/-- For the recommended instances, flipping one bit of a 3-byte sequence changes CK8, and flipping one bit of a sequence of 11 to 1021 bytes changes CK16, with the block's seeds: the assumption of R185 holds for them.
Rests on: R185, R186, R187. -/
def Obligations.RecommendedChecksumsDetectBitFlips : Prop :=
  ckDetectsBitFlips .recommended

/-- (a) The chunks of RA.FEED, joined, are its bytes, and each has at most FRAG_MAX; (b) the result of pushing a first chunk and then others is the first push's frames and trace in front of the others'; (c) under legal parameters, a host script that issues the pushes of chunks of at most FRAG_MAX bytes, run by two steps for each push, ends in the state of that result. That the chunks are of one size and that no bytes give no push is the model's choice (log 20), and so is the script (log 6).
Rests on: R109. -/
def Obligations.FeedIsItsPushes : Prop :=
  (∀ (p : Params) (size : Nat) (bytes : List Byte), 1 ≤ p.fragMax → isFeedOf p bytes (feedChunks p size bytes)) ∧
  (∀ (c : Nat) (d : List Byte) (ds : List (List Byte)) (s : State) (r : FeedResult), runPushes c (d :: ds) s = some r ↔
    ∃ (t : State) (frames : List Frame) (trace : List ScanRecord) (r' : FeedResult),
      exec (.raPush c (BitVec.ofNat 16 d.length) d) s = .next t ∧
      t.response = some { status := .ok, payload := .push frames trace } ∧ runPushes c ds t = some r' ∧
      r = { state := r'.state, frames := frames ++ r'.frames, trace := trace ++ r'.trace }) ∧
  (∀ (s : State) (c : Nat) (ds : List (List Byte)) (r : FeedResult), s.params.legal → c < 2 ^ s.params.chanIdW →
    s.request = none → s.host = feedActs c ds → (∀ d ∈ ds, d.length ≤ s.params.fragMax) →
    runPushes c ds { s with host := [] } = some r → runSteps (2 * ds.length) s = .next r.state)
end

