-- ==== Sys2Proof/Laws/Memory.lean ====
section
/-! SUPPORT. Sparse tables and host memory: read after write, and the canonical form kept by every operation. -/

namespace Sys2Proof.Machine

variable {α : Type}

@[simp] theorem sparseGet_nil (d : α) (a : Nat) : sparseGet d [] a = d := rfl

/-- An entry that is not listed reads as the default. -/
theorem sparseGet_of_not_mem (d : α) (m : List (Nat × α)) (a : Nat) (h : ∀ e ∈ m, e.1 ≠ a) : sparseGet d m a = d := by
  induction m with
  | nil => rfl
  | cons e m ih =>
    have h1 : e.1 ≠ a := h e (by simp)
    simp only [sparseGet, if_neg h1]
    exact ih fun e' he' => h e' (by simp [he'])

/-- What a table reads as is the default or one of its entries. -/
theorem sparseGet_mem (d : α) (m : List (Nat × α)) (a : Nat) : sparseGet d m a = d ∨ (a, sparseGet d m a) ∈ m := by
  induction m with
  | nil => exact .inl rfl
  | cons e m ih =>
    by_cases h : e.1 = a
    · right
      simp only [sparseGet, if_pos h]
      subst h
      simp
    · simp only [sparseGet, if_neg h]
      exact ih.imp_right (List.mem_cons_of_mem _)

theorem sparseGet_erase (d : α) (m : List (Nat × α)) (a b : Nat) :
    sparseGet d (sparseErase m a) b = if b = a then d else sparseGet d m b := by
  induction m with
  | nil => simp [sparseErase]
  | cons e m ih =>
    unfold sparseErase at ih ⊢
    by_cases h : e.1 = a
    · rw [List.filter_cons_of_neg (by simpa using h), ih]
      by_cases hb : b = a
      · simp [hb]
      · have : e.1 ≠ b := fun he => hb (he.symm.trans h)
        simp [hb, sparseGet, this]
    · rw [List.filter_cons_of_pos (by simpa using h)]
      by_cases hb : e.1 = b
      · have : b ≠ a := fun hba => h (hb.trans hba)
        simp [sparseGet, hb, this]
      · simp only [sparseGet, if_neg hb, ih]

theorem sparseGet_insert (d : α) (m : List (Nat × α)) (a b : Nat) (v : α) (h : ∀ e ∈ m, e.1 ≠ a) :
    sparseGet d (sparseInsert a v m) b = if b = a then v else sparseGet d m b := by
  induction m with
  | nil => simp [sparseInsert, sparseGet, eq_comm]
  | cons e m ih =>
    have he : e.1 ≠ a := h e (by simp)
    have ih := ih fun e' he' => h e' (by simp [he'])
    simp only [sparseInsert]
    split
    · by_cases hb : a = b
      · simp [sparseGet, hb]
      · simp [sparseGet, hb, Ne.symm hb]
    · by_cases hb : e.1 = b
      · have : b ≠ a := fun hba => he (hb.trans hba)
        simp [sparseGet, hb, this]
      · simp only [sparseGet, if_neg hb, ih]

/-- Read after write, of any table. -/
theorem sparseGet_set [DecidableEq α] (d : α) (m : List (Nat × α)) (a b : Nat) (v : α) :
    sparseGet d (sparseSet d m a v) b = if b = a then v else sparseGet d m b := by
  unfold sparseSet
  split
  · next h => rw [sparseGet_erase, h]
  · rw [sparseGet_insert _ _ _ _ _ (by simp [sparseErase]), sparseGet_erase]
    split <;> simp_all

theorem mem_sparseInsert {a : Nat} {v : α} {m : List (Nat × α)} {e : Nat × α} (h : e ∈ sparseInsert a v m) :
    e = (a, v) ∨ e ∈ m := by
  induction m with
  | nil => simpa [sparseInsert] using h
  | cons x m ih =>
    simp only [sparseInsert] at h
    split at h
    · simpa using h
    · rcases List.mem_cons.mp h with h | h
      · exact .inr (by simp [h])
      · exact (ih h).imp_right (List.mem_cons_of_mem _)

/-- Every entry of a written table is the entry written or an entry of the table before. -/
theorem mem_sparseSet [DecidableEq α] {d : α} {m : List (Nat × α)} {a : Nat} {v : α} {e : Nat × α}
    (h : e ∈ sparseSet d m a v) : e = (a, v) ∨ e ∈ m := by
  unfold sparseSet at h
  split at h
  · exact .inr (List.mem_of_mem_filter h)
  · exact (mem_sparseInsert h).imp_right List.mem_of_mem_filter

theorem sparseInsert_pairwise {a : Nat} {v : α} {m : List (Nat × α)} (hm : m.Pairwise fun x y => x.1 < y.1)
    (ha : ∀ e ∈ m, e.1 ≠ a) : (sparseInsert a v m).Pairwise fun x y => x.1 < y.1 := by
  induction m with
  | nil => simp [sparseInsert]
  | cons x m ih =>
    have hx := List.pairwise_cons.mp hm
    simp only [sparseInsert]
    split
    · next hlt =>
      refine List.pairwise_cons.mpr ⟨fun e he => ?_, hm⟩
      rcases List.mem_cons.mp he with he | he
      · simpa [he] using hlt
      · exact hlt.trans (hx.1 e he)
    · next hge =>
      refine List.pairwise_cons.mpr ⟨fun e he => ?_, ih hx.2 fun e he => ha e (by simp [he])⟩
      rcases mem_sparseInsert he with he | he
      · have : x.1 ≠ a := ha x (by simp)
        subst he
        exact lt_of_le_of_ne (Nat.le_of_not_lt hge) this
      · exact hx.1 e he

/-- A write keeps the canonical form. -/
theorem sparseSet_wf [DecidableEq α] {d : α} {m : List (Nat × α)} (h : sparseWf d m) (a : Nat) (v : α) :
    sparseWf d (sparseSet d m a v) := by
  refine ⟨?_, fun e he => ?_⟩
  · unfold sparseSet
    split
    · exact h.1.filter _
    · exact sparseInsert_pairwise (h.1.filter _) (by simp [sparseErase])
  · unfold sparseSet at he
    split at he
    · exact h.2 e (List.mem_of_mem_filter he)
    · next hv =>
      rcases mem_sparseInsert he with he | he
      · simpa [he] using hv
      · exact h.2 e (List.mem_of_mem_filter he)

/-- Read after write of host memory. -/
theorem Memory.read_write (m : Memory) (a b : Nat) (v : Byte) :
    (m.write a v).read b = if b = a then v else m.read b := sparseGet_set _ _ _ _ _

@[simp] theorem Memory.read_write_self (m : Memory) (a : Nat) (v : Byte) : (m.write a v).read a = v := by
  simp [Memory.read_write]

theorem Memory.read_write_ne (m : Memory) {a b : Nat} (v : Byte) (h : b ≠ a) : (m.write a v).read b = m.read b := by
  simp [Memory.read_write, h]

/-- A byte write keeps the canonical form. -/
theorem Memory.write_wf {m : Memory} (h : m.wf) (a : Nat) (v : Byte) : (m.write a v).wf := sparseSet_wf h a v

/-- A run of bytes written reads back byte by byte, and every other byte is as before. -/
theorem Memory.read_writeBytes (m : Memory) (a : Nat) (bs : List Byte) (b : Nat) :
    (m.writeBytes a bs).read b = if a ≤ b ∧ b < a + bs.length then bs.getD (b - a) 0 else m.read b := by
  induction bs generalizing m a with
  | nil => simp [Memory.writeBytes]
  | cons x bs ih =>
    simp only [Memory.writeBytes, ih, Memory.read_write, List.length_cons]
    by_cases h : b = a
    · subst h; simp
    · by_cases h1 : a + 1 ≤ b ∧ b < a + 1 + bs.length
      · have e : b - a = (b - (a + 1)) + 1 := by omega
        rw [if_pos h1, if_pos (by omega), e, List.getD_cons_succ]
      · rw [if_neg h1, if_neg h, if_neg (by omega)]

/-- A run of bytes written keeps the canonical form. -/
theorem Memory.writeBytes_wf {m : Memory} (h : m.wf) (a : Nat) (bs : List Byte) : (m.writeBytes a bs).wf := by
  induction bs generalizing m a with
  | nil => exact h
  | cons x bs ih => exact ih (Memory.write_wf h a x) (a + 1)

end Sys2Proof.Machine
end

