-- ==== Sys2Proof/Laws/State.lean ====
section
/-! SUPPORT. One lemma per field of State and per update of it, each true by definition. -/

namespace Sys2Proof.Machine

@[simp] theorem State.writeByte_params (s : State) (a : Nat) (v : Byte) : (s.writeByte a v).params = s.params := rfl
@[simp] theorem State.writeByte_mem (s : State) (a : Nat) (v : Byte) : (s.writeByte a v).mem = s.mem.write a v := rfl
@[simp] theorem State.writeByte_chans (s : State) (a : Nat) (v : Byte) : (s.writeByte a v).chans = s.chans := rfl
@[simp] theorem State.writeByte_request (s : State) (a : Nat) (v : Byte) : (s.writeByte a v).request = s.request := rfl
@[simp] theorem State.writeByte_response (s : State) (a : Nat) (v : Byte) : (s.writeByte a v).response = s.response := rfl
@[simp] theorem State.writeByte_host (s : State) (a : Nat) (v : Byte) : (s.writeByte a v).host = s.host := rfl

@[simp] theorem State.reply_params (s : State) (p : Payload) : (s.reply p).params = s.params := rfl
@[simp] theorem State.reply_mem (s : State) (p : Payload) : (s.reply p).mem = s.mem := rfl
@[simp] theorem State.reply_chans (s : State) (p : Payload) : (s.reply p).chans = s.chans := rfl
@[simp] theorem State.reply_request (s : State) (p : Payload) : (s.reply p).request = s.request := rfl
@[simp] theorem State.reply_response (s : State) (p : Payload) : (s.reply p).response = some { status := .ok, payload := p } := rfl
@[simp] theorem State.reply_host (s : State) (p : Payload) : (s.reply p).host = s.host := rfl

@[simp] theorem State.raise_params (s : State) (e : Status) : (s.raise e).params = s.params := rfl
@[simp] theorem State.raise_mem (s : State) (e : Status) : (s.raise e).mem = s.mem := rfl
@[simp] theorem State.raise_chans (s : State) (e : Status) : (s.raise e).chans = s.chans := rfl
@[simp] theorem State.raise_request (s : State) (e : Status) : (s.raise e).request = s.request := rfl
@[simp] theorem State.raise_response (s : State) (e : Status) : (s.raise e).response = some { status := e, payload := .empty } := rfl
@[simp] theorem State.raise_host (s : State) (e : Status) : (s.raise e).host = s.host := rfl

@[simp] theorem State.setChan_params (s : State) (c : Nat) (ch : Chan) : (s.setChan c ch).params = s.params := rfl
@[simp] theorem State.setChan_mem (s : State) (c : Nat) (ch : Chan) : (s.setChan c ch).mem = s.mem := rfl
@[simp] theorem State.setChan_chans (s : State) (c : Nat) (ch : Chan) : (s.setChan c ch).chans = sparseSet Chan.idle s.chans c ch := rfl
@[simp] theorem State.setChan_request (s : State) (c : Nat) (ch : Chan) : (s.setChan c ch).request = s.request := rfl
@[simp] theorem State.setChan_response (s : State) (c : Nat) (ch : Chan) : (s.setChan c ch).response = s.response := rfl
@[simp] theorem State.setChan_host (s : State) (c : Nat) (ch : Chan) : (s.setChan c ch).host = s.host := rfl

@[simp] theorem State.clearChans_params (s : State) : (s.clearChans).params = s.params := rfl
@[simp] theorem State.clearChans_mem (s : State) : (s.clearChans).mem = s.mem := rfl
@[simp] theorem State.clearChans_chans (s : State) : (s.clearChans).chans = [] := rfl
@[simp] theorem State.clearChans_request (s : State) : (s.clearChans).request = s.request := rfl
@[simp] theorem State.clearChans_response (s : State) : (s.clearChans).response = s.response := rfl
@[simp] theorem State.clearChans_host (s : State) : (s.clearChans).host = s.host := rfl

@[simp] theorem State.takeRequest_params (s : State) : (s.takeRequest).params = s.params := rfl
@[simp] theorem State.takeRequest_mem (s : State) : (s.takeRequest).mem = s.mem := rfl
@[simp] theorem State.takeRequest_chans (s : State) : (s.takeRequest).chans = s.chans := rfl
@[simp] theorem State.takeRequest_request (s : State) : (s.takeRequest).request = none := rfl
@[simp] theorem State.takeRequest_response (s : State) : (s.takeRequest).response = s.response := rfl
@[simp] theorem State.takeRequest_host (s : State) : (s.takeRequest).host = s.host := rfl

@[simp] theorem State.onResetEvent_params (s : State) : (s.onResetEvent).params = s.params := rfl
@[simp] theorem State.onResetEvent_mem (s : State) : (s.onResetEvent).mem = s.mem := rfl
@[simp] theorem State.onResetEvent_chans (s : State) : (s.onResetEvent).chans = [] := rfl
@[simp] theorem State.onResetEvent_request (s : State) : (s.onResetEvent).request = none := rfl
@[simp] theorem State.onResetEvent_response (s : State) : (s.onResetEvent).response = none := rfl
@[simp] theorem State.onResetEvent_host (s : State) : (s.onResetEvent).host = s.host := rfl

@[simp] theorem State.storePcrc_params (s : State) (base len : Nat) (p : Half) : (s.storePcrc base len p).params = s.params := rfl
@[simp] theorem State.storePcrc_mem (s : State) (base len : Nat) (p : Half) : (s.storePcrc base len p).mem = (s.mem.write (base + (len - 2)) (loByte p)).write (base + (len - 1)) (hiByte p) := rfl
@[simp] theorem State.storePcrc_chans (s : State) (base len : Nat) (p : Half) : (s.storePcrc base len p).chans = s.chans := rfl
@[simp] theorem State.storePcrc_request (s : State) (base len : Nat) (p : Half) : (s.storePcrc base len p).request = s.request := rfl
@[simp] theorem State.storePcrc_response (s : State) (base len : Nat) (p : Half) : (s.storePcrc base len p).response = s.response := rfl
@[simp] theorem State.storePcrc_host (s : State) (base len : Nat) (p : Half) : (s.storePcrc base len p).host = s.host := rfl

@[simp] theorem State.withRequest_params (s : State) (r : Request) : (s.withRequest r).params = s.params := rfl
@[simp] theorem State.withRequest_mem (s : State) (r : Request) : (s.withRequest r).mem = s.mem := rfl
@[simp] theorem State.withRequest_chans (s : State) (r : Request) : (s.withRequest r).chans = s.chans := rfl
@[simp] theorem State.withRequest_request (s : State) (r : Request) : (s.withRequest r).request = some r := rfl
@[simp] theorem State.withRequest_response (s : State) (r : Request) : (s.withRequest r).response = s.response := rfl
@[simp] theorem State.withRequest_host (s : State) (r : Request) : (s.withRequest r).host = dropResets s.host := rfl

end Sys2Proof.Machine
end

