-- ==== Sys2Proof/Laws/Ops.lean ====
section
/-! SUPPORT. For each shared operation one lemma that says once everything it can do. -/

namespace Sys2Proof.Machine

/-- `onValue` runs its body on a value that fits, and raises ERR_VALUE otherwise. -/
theorem onValue_next {s t : State} {v : Half} {w : Nat} {body : Out} (h : onValue s v w body = .next t) :
    (v.toNat < 2 ^ w ∧ body = .next t) ∨ (2 ^ w ≤ v.toNat ∧ t = s.raise .errValue) := by
  unfold onValue valueFits at h
  split at h
  · next hv => exact .inl ⟨by simpa using hv, h⟩
  · next hv =>
    injection h with h
    exact .inr ⟨by simpa using hv, h.symm⟩

/-- `onLegalView` runs its body on a legal view, and raises ERR_RANGE otherwise. -/
theorem onLegalView_next {s t : State} {base : Nat} {n : Half} {body : Out} (h : onLegalView s base n body = .next t) :
    (base + n.toNat ≤ 2 ^ s.params.addrW ∧ body = .next t) ∨
      (2 ^ s.params.addrW < base + n.toNat ∧ t = s.raise .errRange) := by
  unfold onLegalView viewLegal at h
  split at h
  · next hv => exact .inl ⟨by simpa using hv, h⟩
  · next hv =>
    injection h with h
    exact .inr ⟨by simpa using hv, h.symm⟩

/-- `onView` runs its body on a legal view that is long enough, and raises ERR_RANGE otherwise. -/
theorem onView_next {s t : State} {base need : Nat} {n : Half} {body : Out} (h : onView s base n need body = .next t) :
    (base + n.toNat ≤ 2 ^ s.params.addrW ∧ need ≤ n.toNat ∧ body = .next t) ∨
      ((2 ^ s.params.addrW < base + n.toNat ∨ n.toNat < need) ∧ t = s.raise .errRange) := by
  rcases onLegalView_next h with ⟨hl, h⟩ | ⟨hl, h⟩
  · split at h
    · next hn => exact .inl ⟨hl, hn, h⟩
    · next hn =>
      injection h with h
      exact .inr ⟨.inr (Nat.lt_of_not_le hn), h.symm⟩
  · exact .inr ⟨.inl hl, h⟩

/-- `onFrame` runs its body on the declared length of a frame that lies in a legal view, and raises ERR_RANGE otherwise. -/
theorem onFrame_next {s t : State} {base : Nat} {n : Half} {body : Nat → Out} (h : onFrame s base n body = .next t) :
    (base + n.toNat ≤ 2 ^ s.params.addrW ∧ 3 ≤ n.toNat ∧ 13 ≤ s.viewLen base ∧ s.viewLen base ≤ n.toNat ∧
      body (s.viewLen base) = .next t) ∨
      ((2 ^ s.params.addrW < base + n.toNat ∨ n.toNat < 3 ∨ s.viewLen base < 13 ∨ n.toNat < s.viewLen base) ∧
        t = s.raise .errRange) := by
  rcases onView_next h with ⟨hl, hn, h⟩ | ⟨hl, h⟩
  · split at h
    · next hf => exact .inl ⟨hl, hn, hf.1, hf.2, h⟩
    · next hf =>
      injection h with h
      refine .inr ⟨?_, h.symm⟩
      simp only [minFrame] at hf
      omega
  · exact .inr ⟨by tauto, h⟩

/-- Reading a channel after writing one. -/
theorem State.getChan_setChan (s : State) (c d : Nat) (ch : Chan) :
    (s.setChan c ch).getChan d = if d = c then ch else s.getChan d := sparseGet_set _ _ _ _ _

@[simp] theorem State.getChan_setChan_self (s : State) (c : Nat) (ch : Chan) : (s.setChan c ch).getChan c = ch := by
  simp [State.getChan_setChan]

@[simp] theorem State.getChan_clearChans (s : State) (c : Nat) : s.clearChans.getChan c = Chan.idle := rfl

@[simp] theorem State.getChan_reply (s : State) (p : Payload) (c : Nat) : (s.reply p).getChan c = s.getChan c := rfl

@[simp] theorem State.getChan_raise (s : State) (e : Status) (c : Nat) : (s.raise e).getChan c = s.getChan c := rfl

@[simp] theorem State.getChan_writeByte (s : State) (a : Nat) (v : Byte) (c : Nat) :
    (s.writeByte a v).getChan c = s.getChan c := rfl

@[simp] theorem State.viewBytes_length (s : State) (base i j : Nat) : (s.viewBytes base i j).length = j - i := by
  simp [State.viewBytes]

/-- The bytes of a view, one by one. -/
theorem State.byteAt_viewBytes (s : State) (base i j k : Nat) (h : k < j - i) :
    byteAt (s.viewBytes base i j) k = s.viewByte base (i + k) := by
  simp [byteAt, State.viewBytes, h]

/-- The fragment of a push has exactly its `k` bytes. -/
@[simp] theorem fragment_length (data : List Byte) (k : Half) : (fragment data k).length = k.toNat := by
  simp [fragment]; omega

/-- A fragment whose bytes are all listed is that list. -/
theorem fragment_eq (data : List Byte) (k : Half) (h : data.length = k.toNat) : fragment data k = data := by
  simp [fragment, h]

/-- What a push computes: shut, the bytes are held; open, the loop runs over all of them. -/
theorem pushFragment_cases (ck : CkChoice) (c : Nat) (ch : Chan) (d : List Byte) :
    ((∃ h, ch.hint = some h ∧ (ch.buf ++ d).length < h) ∧
      pushFragment ck c ch d =
        { chan := { buf := ch.buf ++ d, hint := ch.hint }, frames := [], trace := [] }) ∨
      ((∀ h, ch.hint = some h → h ≤ (ch.buf ++ d).length) ∧ pushFragment ck c ch d = drain ck c (ch.buf ++ d)) := by
  unfold pushFragment gateShut
  cases hh : ch.hint with
  | none => exact .inr ⟨by simp, by simp⟩
  | some h =>
    by_cases hl : (ch.buf ++ d).length < h
    · exact .inl ⟨⟨h, rfl, hl⟩, by simp only [decide_eq_true hl, if_true]⟩
    · refine .inr ⟨fun h' e => ?_, by simp only [decide_eq_false hl, Bool.false_eq_true, if_false]⟩
      injection e with e
      omega

end Sys2Proof.Machine
end

