-- ==== Sys2Proof/Laws/PerInstr.lean ====
section
/-! SUPPORT. Statements made instruction by instruction. -/

namespace Sys2Proof

/-- An operation's row of spec/opcode_table.json: its match and its mask. -/
def tableRow : Instr → CmdWord × CmdWord
  | .fcRdSof _ _ => (0x00000001#32, 0xFFFFFFFF#32)
  | .fcRdLen _ _ => (0x00000101#32, 0xFFFFFFFF#32)
  | .fcRdHcrc _ _ => (0x00000201#32, 0xFFFFFFFF#32)
  | .fcRdSender _ _ => (0x00000301#32, 0xFFFFFFFF#32)
  | .fcRdReceiver _ _ => (0x00000401#32, 0xFFFFFFFF#32)
  | .fcRdSeq _ _ => (0x00000501#32, 0xFFFFFFFF#32)
  | .fcRdFlags _ _ => (0x00000601#32, 0xFFFFFFFF#32)
  | .fcRdIsAck _ _ => (0x00000701#32, 0xFFFFFFFF#32)
  | .fcRdNeedAck _ _ => (0x00000801#32, 0xFFFFFFFF#32)
  | .fcRdEnc _ _ => (0x00000901#32, 0xFFFFFFFF#32)
  | .fcRdCmdset _ _ => (0x00000A01#32, 0xFFFFFFFF#32)
  | .fcRdCmdid _ _ => (0x00000B01#32, 0xFFFFFFFF#32)
  | .fcRdPcrc _ _ => (0x00000C01#32, 0xFFFFFFFF#32)
  | .fcWrSof _ _ _ => (0x00000002#32, 0x0000FFFF#32)
  | .fcWrLen _ _ _ => (0x00000102#32, 0x0000FFFF#32)
  | .fcWrHcrc _ _ _ => (0x00000202#32, 0x0000FFFF#32)
  | .fcWrSender _ _ _ => (0x00000302#32, 0x0000FFFF#32)
  | .fcWrReceiver _ _ _ => (0x00000402#32, 0x0000FFFF#32)
  | .fcWrSeq _ _ _ => (0x00000502#32, 0x0000FFFF#32)
  | .fcWrFlags _ _ _ => (0x00000602#32, 0x0000FFFF#32)
  | .fcWrIsAck _ _ _ => (0x00000702#32, 0x0000FFFF#32)
  | .fcWrNeedAck _ _ _ => (0x00000802#32, 0x0000FFFF#32)
  | .fcWrEnc _ _ _ => (0x00000902#32, 0x0000FFFF#32)
  | .fcWrCmdset _ _ _ => (0x00000A02#32, 0x0000FFFF#32)
  | .fcWrCmdid _ _ _ => (0x00000B02#32, 0x0000FFFF#32)
  | .fcWrPcrc _ _ _ => (0x00000C02#32, 0x0000FFFF#32)
  | .fcValid _ _ => (0x00000003#32, 0xFFFFFFFF#32)
  | .fcFinh _ _ => (0x00000004#32, 0xFFFFFFFF#32)
  | .fcFinp _ _ => (0x00000005#32, 0xFFFFFFFF#32)
  | .fcPayload _ _ => (0x00000006#32, 0xFFFFFFFF#32)
  | .scan _ _ => (0x00000010#32, 0xFFFFFFFF#32)
  | .raPush _ _ _ => (0x00000020#32, 0x0000FFFF#32)
  | .raFlush _ => (0x00000021#32, 0xFFFFFFFF#32)
  | .raStatus _ => (0x00000022#32, 0xFFFFFFFF#32)
  | .blkReset => (0x00000030#32, 0xFFFFFFFF#32)

/-- The encoder's command word matches the operation's row of spec/opcode_table.json. -/
def Laws.EncodesTableRow.Statement (i : Instr) : Prop := (encode i).cw &&& (tableRow i).2 = (tableRow i).1

/-- The low half of a command word with an `imm16` is what it was built from. -/
theorem cwWithImm_low (v : Half) (low : BitVec 16) : cwWithImm v low &&& 0x0000FFFF#32 = low.setWidth 32 := by
  unfold cwWithImm
  ext i hi
  have := BitVec.getLsbD_append (x := v) (y := low) (i := i)
  interval_cases i <;> simp_all

theorem Laws.EncodesTableRow.fcRdSof (base : Nat) (vlen : Half) : Laws.EncodesTableRow.Statement (.fcRdSof base vlen) :=
  show (0x00000001#32 &&& 0xFFFFFFFF#32 : CmdWord) = 0x00000001#32 from by decide

theorem Laws.EncodesTableRow.fcRdLen (base : Nat) (vlen : Half) : Laws.EncodesTableRow.Statement (.fcRdLen base vlen) :=
  show (0x00000101#32 &&& 0xFFFFFFFF#32 : CmdWord) = 0x00000101#32 from by decide

theorem Laws.EncodesTableRow.fcRdHcrc (base : Nat) (vlen : Half) : Laws.EncodesTableRow.Statement (.fcRdHcrc base vlen) :=
  show (0x00000201#32 &&& 0xFFFFFFFF#32 : CmdWord) = 0x00000201#32 from by decide

theorem Laws.EncodesTableRow.fcRdSender (base : Nat) (vlen : Half) : Laws.EncodesTableRow.Statement (.fcRdSender base vlen) :=
  show (0x00000301#32 &&& 0xFFFFFFFF#32 : CmdWord) = 0x00000301#32 from by decide

theorem Laws.EncodesTableRow.fcRdReceiver (base : Nat) (vlen : Half) : Laws.EncodesTableRow.Statement (.fcRdReceiver base vlen) :=
  show (0x00000401#32 &&& 0xFFFFFFFF#32 : CmdWord) = 0x00000401#32 from by decide

theorem Laws.EncodesTableRow.fcRdSeq (base : Nat) (vlen : Half) : Laws.EncodesTableRow.Statement (.fcRdSeq base vlen) :=
  show (0x00000501#32 &&& 0xFFFFFFFF#32 : CmdWord) = 0x00000501#32 from by decide

theorem Laws.EncodesTableRow.fcRdFlags (base : Nat) (vlen : Half) : Laws.EncodesTableRow.Statement (.fcRdFlags base vlen) :=
  show (0x00000601#32 &&& 0xFFFFFFFF#32 : CmdWord) = 0x00000601#32 from by decide

theorem Laws.EncodesTableRow.fcRdIsAck (base : Nat) (vlen : Half) : Laws.EncodesTableRow.Statement (.fcRdIsAck base vlen) :=
  show (0x00000701#32 &&& 0xFFFFFFFF#32 : CmdWord) = 0x00000701#32 from by decide

theorem Laws.EncodesTableRow.fcRdNeedAck (base : Nat) (vlen : Half) : Laws.EncodesTableRow.Statement (.fcRdNeedAck base vlen) :=
  show (0x00000801#32 &&& 0xFFFFFFFF#32 : CmdWord) = 0x00000801#32 from by decide

theorem Laws.EncodesTableRow.fcRdEnc (base : Nat) (vlen : Half) : Laws.EncodesTableRow.Statement (.fcRdEnc base vlen) :=
  show (0x00000901#32 &&& 0xFFFFFFFF#32 : CmdWord) = 0x00000901#32 from by decide

theorem Laws.EncodesTableRow.fcRdCmdset (base : Nat) (vlen : Half) : Laws.EncodesTableRow.Statement (.fcRdCmdset base vlen) :=
  show (0x00000A01#32 &&& 0xFFFFFFFF#32 : CmdWord) = 0x00000A01#32 from by decide

theorem Laws.EncodesTableRow.fcRdCmdid (base : Nat) (vlen : Half) : Laws.EncodesTableRow.Statement (.fcRdCmdid base vlen) :=
  show (0x00000B01#32 &&& 0xFFFFFFFF#32 : CmdWord) = 0x00000B01#32 from by decide

theorem Laws.EncodesTableRow.fcRdPcrc (base : Nat) (vlen : Half) : Laws.EncodesTableRow.Statement (.fcRdPcrc base vlen) :=
  show (0x00000C01#32 &&& 0xFFFFFFFF#32 : CmdWord) = 0x00000C01#32 from by decide

theorem Laws.EncodesTableRow.fcWrSof (v : Half) (base : Nat) (vlen : Half) : Laws.EncodesTableRow.Statement (.fcWrSof v base vlen) :=
  (cwWithImm_low _ _).trans rfl

theorem Laws.EncodesTableRow.fcWrLen (v : Half) (base : Nat) (vlen : Half) : Laws.EncodesTableRow.Statement (.fcWrLen v base vlen) :=
  (cwWithImm_low _ _).trans rfl

theorem Laws.EncodesTableRow.fcWrHcrc (v : Half) (base : Nat) (vlen : Half) : Laws.EncodesTableRow.Statement (.fcWrHcrc v base vlen) :=
  (cwWithImm_low _ _).trans rfl

theorem Laws.EncodesTableRow.fcWrSender (v : Half) (base : Nat) (vlen : Half) : Laws.EncodesTableRow.Statement (.fcWrSender v base vlen) :=
  (cwWithImm_low _ _).trans rfl

theorem Laws.EncodesTableRow.fcWrReceiver (v : Half) (base : Nat) (vlen : Half) : Laws.EncodesTableRow.Statement (.fcWrReceiver v base vlen) :=
  (cwWithImm_low _ _).trans rfl

theorem Laws.EncodesTableRow.fcWrSeq (v : Half) (base : Nat) (vlen : Half) : Laws.EncodesTableRow.Statement (.fcWrSeq v base vlen) :=
  (cwWithImm_low _ _).trans rfl

theorem Laws.EncodesTableRow.fcWrFlags (v : Half) (base : Nat) (vlen : Half) : Laws.EncodesTableRow.Statement (.fcWrFlags v base vlen) :=
  (cwWithImm_low _ _).trans rfl

theorem Laws.EncodesTableRow.fcWrIsAck (v : Half) (base : Nat) (vlen : Half) : Laws.EncodesTableRow.Statement (.fcWrIsAck v base vlen) :=
  (cwWithImm_low _ _).trans rfl

theorem Laws.EncodesTableRow.fcWrNeedAck (v : Half) (base : Nat) (vlen : Half) : Laws.EncodesTableRow.Statement (.fcWrNeedAck v base vlen) :=
  (cwWithImm_low _ _).trans rfl

theorem Laws.EncodesTableRow.fcWrEnc (v : Half) (base : Nat) (vlen : Half) : Laws.EncodesTableRow.Statement (.fcWrEnc v base vlen) :=
  (cwWithImm_low _ _).trans rfl

theorem Laws.EncodesTableRow.fcWrCmdset (v : Half) (base : Nat) (vlen : Half) : Laws.EncodesTableRow.Statement (.fcWrCmdset v base vlen) :=
  (cwWithImm_low _ _).trans rfl

theorem Laws.EncodesTableRow.fcWrCmdid (v : Half) (base : Nat) (vlen : Half) : Laws.EncodesTableRow.Statement (.fcWrCmdid v base vlen) :=
  (cwWithImm_low _ _).trans rfl

theorem Laws.EncodesTableRow.fcWrPcrc (v : Half) (base : Nat) (vlen : Half) : Laws.EncodesTableRow.Statement (.fcWrPcrc v base vlen) :=
  (cwWithImm_low _ _).trans rfl

theorem Laws.EncodesTableRow.fcValid (base : Nat) (vlen : Half) : Laws.EncodesTableRow.Statement (.fcValid base vlen) :=
  show (0x00000003#32 &&& 0xFFFFFFFF#32 : CmdWord) = 0x00000003#32 from by decide

theorem Laws.EncodesTableRow.fcFinh (base : Nat) (vlen : Half) : Laws.EncodesTableRow.Statement (.fcFinh base vlen) :=
  show (0x00000004#32 &&& 0xFFFFFFFF#32 : CmdWord) = 0x00000004#32 from by decide

theorem Laws.EncodesTableRow.fcFinp (base : Nat) (vlen : Half) : Laws.EncodesTableRow.Statement (.fcFinp base vlen) :=
  show (0x00000005#32 &&& 0xFFFFFFFF#32 : CmdWord) = 0x00000005#32 from by decide

theorem Laws.EncodesTableRow.fcPayload (base : Nat) (vlen : Half) : Laws.EncodesTableRow.Statement (.fcPayload base vlen) :=
  show (0x00000006#32 &&& 0xFFFFFFFF#32 : CmdWord) = 0x00000006#32 from by decide

theorem Laws.EncodesTableRow.scan (base : Nat) (vlen : Half) : Laws.EncodesTableRow.Statement (.scan base vlen) :=
  show (0x00000010#32 &&& 0xFFFFFFFF#32 : CmdWord) = 0x00000010#32 from by decide

theorem Laws.EncodesTableRow.raPush (chan : Nat) (k : Half) (data : List Byte) : Laws.EncodesTableRow.Statement (.raPush chan k data) :=
  (cwWithImm_low _ _).trans rfl

theorem Laws.EncodesTableRow.raFlush (chan : Nat) : Laws.EncodesTableRow.Statement (.raFlush chan) :=
  show (0x00000021#32 &&& 0xFFFFFFFF#32 : CmdWord) = 0x00000021#32 from by decide

theorem Laws.EncodesTableRow.raStatus (chan : Nat) : Laws.EncodesTableRow.Statement (.raStatus chan) :=
  show (0x00000022#32 &&& 0xFFFFFFFF#32 : CmdWord) = 0x00000022#32 from by decide

theorem Laws.EncodesTableRow.blkReset : Laws.EncodesTableRow.Statement .blkReset :=
  show (0x00000030#32 &&& 0xFFFFFFFF#32 : CmdWord) = 0x00000030#32 from by decide

end Sys2Proof
end

