-- ==== Sys2Proof/Laws/Scan.lean ====
section
/-! SUPPORT. The marker search and ScanCore: what each can answer. -/

namespace Sys2Proof.Machine

/-- The marker search finds nothing exactly in a sequence without a marker (41_scanner R189). -/
theorem markerIndex_none {t : List Byte} : markerIndex t = none ↔ ∀ b ∈ t, b ≠ marker := by
  induction t with
  | nil => simp [markerIndex]
  | cons x t ih =>
    simp only [markerIndex]
    by_cases h : x = marker <;> simp [h, ih]

/-- The marker search answers the least index of a marker (41_scanner R189). -/
theorem markerIndex_some {t : List Byte} {off : Nat} : markerIndex t = some off ↔
    off < t.length ∧ byteAt t off = marker ∧ ∀ i, i < off → byteAt t i ≠ marker := by
  induction t generalizing off with
  | nil => simp [markerIndex]
  | cons x t ih =>
    simp only [markerIndex]
    by_cases h : x = marker
    · simp only [if_pos h, Option.some.injEq]
      refine ⟨fun e => ?_, fun ⟨_, _, h0⟩ => ?_⟩
      · subst e; simp [byteAt, h]
      · by_contra hne
        exact h0 0 (Nat.pos_of_ne_zero (Ne.symm hne)) (by simp [byteAt, h])
    · simp only [if_neg h, Option.map_eq_some_iff]
      refine ⟨?_, fun ⟨hl, hb, h0⟩ => ?_⟩
      · rintro ⟨o, ho, rfl⟩
        obtain ⟨hl, hb, h0⟩ := ih.mp ho
        refine ⟨by simpa using hl, by simpa [byteAt] using hb, fun i hi => ?_⟩
        cases i with
        | zero => simpa [byteAt] using h
        | succ i => simpa [byteAt] using h0 i (by omega)
      · cases off with
        | zero => exact absurd (by simpa [byteAt] using hb) h
        | succ o =>
          refine ⟨o, ih.mpr ⟨by simpa using hl, by simpa [byteAt] using hb, fun i hi => ?_⟩, rfl⟩
          simpa [byteAt] using h0 (i + 1) (by omega)

/-- What `ScanCore` can answer, and when (41_scanner R188). -/
theorem scanCore_cases (ck : CkChoice) (t : List Byte) :
    (markerIndex t = none ∧ scanCore ck t = .noSof) ∨
    ∃ off, markerIndex t = some off ∧
      ((t.length - off < 4 ∧ scanCore ck t = .needMore (4 - (t.length - off)) off) ∨
       (4 ≤ t.length - off ∧ hdrOk ck t off = false ∧ scanCore ck t = .badHcrc (off + 3)) ∨
       (4 ≤ t.length - off ∧ hdrOk ck t off = true ∧ declaredLen t off < 13 ∧ scanCore ck t = .badPcrc (off + 3)) ∨
       (4 ≤ t.length - off ∧ hdrOk ck t off = true ∧ 13 ≤ declaredLen t off ∧ t.length - off < declaredLen t off ∧
         scanCore ck t = .needMore (declaredLen t off - (t.length - off)) off) ∨
       (hdrOk ck t off = true ∧ 13 ≤ declaredLen t off ∧ declaredLen t off ≤ t.length - off ∧
         pktOk ck t off (declaredLen t off) = false ∧ scanCore ck t = .badPcrc (off + 3)) ∨
       (hdrOk ck t off = true ∧ 13 ≤ declaredLen t off ∧ declaredLen t off ≤ t.length - off ∧
         pktOk ck t off (declaredLen t off) = true ∧ scanCore ck t = .ok (declaredLen t off) (off + declaredLen t off))) := by
  unfold scanCore
  cases hm : markerIndex t with
  | none => exact .inl ⟨rfl, rfl⟩
  | some off =>
    refine .inr ⟨off, rfl, ?_⟩
    simp only [probe, minFrame, resync]
    by_cases h1 : t.length - off < 4
    · exact .inl ⟨h1, by simp [h1]⟩
    by_cases h2 : hdrOk ck t off = true
    · by_cases h3 : declaredLen t off < 13
      · exact .inr (.inr (.inl ⟨by omega, h2, h3, by simp [h1, h2, h3]⟩))
      by_cases h4 : t.length - off < declaredLen t off
      · exact .inr (.inr (.inr (.inl ⟨by omega, h2, by omega, h4, by simp [h1, h2, h3, h4]⟩)))
      by_cases h5 : pktOk ck t off (declaredLen t off) = true
      · exact .inr (.inr (.inr (.inr (.inr ⟨h2, by omega, by omega, h5, by simp [h1, h2, h3, h4, h5]⟩))))
      · exact .inr (.inr (.inr (.inr (.inl ⟨h2, by omega, by omega, by simpa using h5, by simp [h1, h2, h3, h4, h5]⟩))))
    · exact .inr (.inl ⟨by omega, by simpa using h2, by simp [h1, h2]⟩)

end Sys2Proof.Machine
end

