-- ==== Sys2Proof/Laws/Step.lean ====
section
/-! SUPPORT. What one step can do, said once. -/

namespace Sys2Proof.Machine

/-- A port field holds a value of its width. -/
theorem portField_lt (w n : Nat) : portField w n < 2 ^ w := by
  unfold portField
  split
  · assumption
  · exact Nat.mod_lt _ (Nat.two_pow_pos w)

/-- A number that fits its field is what the field holds. -/
@[simp] theorem portField_of_lt {w n : Nat} (h : n < 2 ^ w) : portField w n = n := by simp [portField, h]

/-- Whatever the host issues, the record on the port fits the port. -/
theorem requestOnPort_fits (p : Params) (r : Request) : (requestOnPort p r).fits p = true := by
  simp [Request.fits, requestOnPort, addrFits, chanFits, portField_lt]

/-- A request that fits reaches the port as it is. -/
theorem requestOnPort_of_fits {p : Params} {r : Request} (h : r.fits p = true) : requestOnPort p r = r := by
  simp only [Request.fits, addrFits, chanFits, Bool.and_eq_true, decide_eq_true_eq] at h
  obtain ⟨⟨hb, hc⟩, hd⟩ := h
  simp [requestOnPort, hb, hc, List.take_of_length_le hd]

/-- What the host's turn can answer. -/
theorem hostTurn_cases {s : State} :
    (s.host = [] ∧ s.hostTurn = .next s) ∨
    (∃ r rest, s.host = .issue r :: rest ∧
      s.hostTurn = .next { s with request := some (requestOnPort s.params r), host := rest }) ∨
    (∃ addr bytes rest, s.host = .store addr bytes :: rest ∧ addr + bytes.length ≤ 2 ^ s.params.addrW ∧
      s.hostTurn = .next { s with mem := s.mem.writeBytes addr bytes, host := rest }) ∨
    (∃ addr bytes rest, s.host = .store addr bytes :: rest ∧ 2 ^ s.params.addrW < addr + bytes.length ∧
      s.hostTurn = .fault .hostStoreOutsideMemory) ∨
    (∃ rest, s.host = .readResponse :: rest ∧ s.hostTurn = .next { s with response := none, host := rest }) ∨
    (∃ rest, s.host = .resetEvent :: rest ∧ s.hostTurn = .next { s.onResetEvent with host := rest }) := by
  unfold State.hostTurn
  cases hh : s.host with
  | nil => simp
  | cons a rest =>
    cases a with
    | issue r => simp
    | store addr bytes =>
      by_cases hl : addr + bytes.length ≤ 2 ^ s.params.addrW
      · simp [hl]
      · simp [hl, Nat.lt_of_not_le hl]
    | readResponse => simp
    | resetEvent => simp

/-- What the block answers to a request: the operation's meaning, or ERR_OP (60_exceptions R272). -/
theorem perform_cases (r : Request) (s : State) :
    (∃ i, decode r = .ok i ∧ perform r s = exec i s) ∨
      (∃ e, decode r = .error e ∧ perform r s = .next (s.raise .errOp)) := by
  unfold perform
  cases hd : decode r with
  | ok i => exact .inl ⟨i, rfl, rfl⟩
  | error e => exact .inr ⟨e, rfl, rfl⟩

/-- What one step is: the reset event, the request in flight, or the host's turn. -/
theorem step_cases (s : State) :
    (s.resetAsserted = true ∧ step s = s.hostTurn) ∨
    (s.resetAsserted = false ∧ (∃ r, s.request = some r ∧ step s = perform r s.takeRequest)) ∨
    (s.resetAsserted = false ∧ s.request = none ∧ step s = s.hostTurn) := by
  unfold step
  cases hr : s.resetAsserted with
  | true => exact .inl ⟨rfl, by simp⟩
  | false =>
    cases hq : s.request with
    | some r => exact .inr (.inl ⟨rfl, r, rfl, by simp⟩)
    | none => exact .inr (.inr ⟨rfl, rfl, by simp⟩)

/-- No reset event is left at the front of a script. -/
theorem dropResets_front (acts : List HostAct) : ∀ rest, dropResets acts ≠ .resetEvent :: rest := by
  induction acts with
  | nil => simp [dropResets]
  | cons a acts ih => cases a <;> simp [dropResets, ih]

/-- A state given a request performs it in the next step. -/
theorem step_withRequest (s : State) (r : Request) : step (s.withRequest r) = perform r (s.withRequest r).takeRequest := by
  have h : (s.withRequest r).resetAsserted = false := by
    unfold State.resetAsserted
    split
    · next rest e => exact absurd e (dropResets_front s.host rest)
    · rfl
  simp [step, h]

end Sys2Proof.Machine
end

