-- ==== Sys2Proof/Machine/Asm.lean ====
section
/-! DEFINITION. The written form of an operation (30_encoding R108), printed: numbers decimal, data bytes in hex. -/

namespace Sys2Proof.Machine

/-- One hex digit. -/
def hexDigit (n : Nat) : Char := Nat.digitChar (n % 16)

/-- A byte as two hex digits. -/
def hexByte (b : Byte) : List Char := [hexDigit (b.toNat / 16), hexDigit b.toNat]

/-- Data bytes in hex, a space between two. -/
def hexBytes : List Byte → List Char
  | [] => []
  | [b] => hexByte b
  | b :: c :: bs => hexByte b ++ ' ' :: hexBytes (c :: bs)

/-- `mnemonic base, n`. -/
def asmView (mnemonic : String) (base : Nat) (vlen : Half) : String :=
  mnemonic ++ " " ++ toString base ++ ", " ++ toString vlen.toNat

/-- `FC.RD field, base, n`. -/
def asmRead (field : String) (base : Nat) (vlen : Half) : String :=
  "FC.RD " ++ field ++ ", " ++ toString base ++ ", " ++ toString vlen.toNat

/-- `FC.WR field, value, base, n`. -/
def asmWrite (field : String) (v : Half) (base : Nat) (vlen : Half) : String :=
  "FC.WR " ++ field ++ ", " ++ toString v.toNat ++ ", " ++ toString base ++ ", " ++ toString vlen.toNat

/-- `RA.PUSH chan, bytes`, the bytes between braces (characters 123 and 125); bytes not listed are 0. -/
def asmPush (chan : Nat) (k : Half) (data : List Byte) : String :=
  "RA.PUSH " ++ toString chan ++ ", " ++
    String.ofList (Char.ofNat 123 :: hexBytes ((data ++ List.replicate (k.toNat - data.length) 0x00#8).take k.toNat) ++
      [Char.ofNat 125])

/-- The written form of an operation (30_encoding R108). -/
def asm : Instr → String
  | .fcRdSof base vlen => asmRead "SOF" base vlen
  | .fcRdLen base vlen => asmRead "LEN" base vlen
  | .fcRdHcrc base vlen => asmRead "HCRC" base vlen
  | .fcRdSender base vlen => asmRead "SENDER" base vlen
  | .fcRdReceiver base vlen => asmRead "RECEIVER" base vlen
  | .fcRdSeq base vlen => asmRead "SEQ" base vlen
  | .fcRdFlags base vlen => asmRead "FLAGS" base vlen
  | .fcRdIsAck base vlen => asmRead "IS_ACK" base vlen
  | .fcRdNeedAck base vlen => asmRead "NEED_ACK" base vlen
  | .fcRdEnc base vlen => asmRead "ENC" base vlen
  | .fcRdCmdset base vlen => asmRead "CMDSET" base vlen
  | .fcRdCmdid base vlen => asmRead "CMDID" base vlen
  | .fcRdPcrc base vlen => asmRead "PCRC" base vlen
  | .fcWrSof v base vlen => asmWrite "SOF" v base vlen
  | .fcWrLen v base vlen => asmWrite "LEN" v base vlen
  | .fcWrHcrc v base vlen => asmWrite "HCRC" v base vlen
  | .fcWrSender v base vlen => asmWrite "SENDER" v base vlen
  | .fcWrReceiver v base vlen => asmWrite "RECEIVER" v base vlen
  | .fcWrSeq v base vlen => asmWrite "SEQ" v base vlen
  | .fcWrFlags v base vlen => asmWrite "FLAGS" v base vlen
  | .fcWrIsAck v base vlen => asmWrite "IS_ACK" v base vlen
  | .fcWrNeedAck v base vlen => asmWrite "NEED_ACK" v base vlen
  | .fcWrEnc v base vlen => asmWrite "ENC" v base vlen
  | .fcWrCmdset v base vlen => asmWrite "CMDSET" v base vlen
  | .fcWrCmdid v base vlen => asmWrite "CMDID" v base vlen
  | .fcWrPcrc v base vlen => asmWrite "PCRC" v base vlen
  | .fcValid base vlen => asmView "FC.VALID" base vlen
  | .fcFinh base vlen => asmView "FC.FINH" base vlen
  | .fcFinp base vlen => asmView "FC.FINP" base vlen
  | .fcPayload base vlen => asmView "FC.PAYLOAD" base vlen
  | .scan base vlen => asmView "SCAN" base vlen
  | .raPush chan k data => asmPush chan k data
  | .raFlush chan => "RA.FLUSH " ++ toString chan
  | .raStatus chan => "RA.STATUS " ++ toString chan
  | .blkReset => "BLK.RESET"

end Sys2Proof.Machine
end

