-- ==== Sys2Proof/Tests/Slice0.lean ====
section
/-! SUPPORT. Tests: the well-formedness smoke tests, the decoding of words written out in the spec, single steps on the
spec's own vectors (spec/95_test_vectors.md), and a state that meets the hypotheses of each statement. -/

namespace Sys2Proof.Tests

open Sys2Proof.Machine

set_option Elab.async false

/-- F1 of 95_test_vectors. -/
def f1 : List Byte :=
  [0x55, 0x1B, 0x04, 0x75, 0x09, 0xC3, 0xE0, 0x00, 0x00, 0x3F, 0x60, 0x00, 0x04, 0x20, 0x00, 0x01, 0x00, 0x40, 0x00,
    0x02, 0x10, 0x04, 0x03, 0x00, 0x04, 0xFA, 0xF0]

/-- F2 of 95_test_vectors. -/
def f2 : List Byte := [0x55, 0x0E, 0x04, 0x66, 0x09, 0x03, 0x4E, 0x06, 0xA0, 0x48, 0x08, 0x01, 0xC2, 0xE8]

/-- Reset with the bytes `b` in host memory from address `a` on. -/
def withBytes (a : Nat) (b : List Byte) : State := { State.reset with mem := Memory.writeBytes [] a b }

/-- F1 at 0x1000. -/
def s1 : State := withBytes 0x1000 f1

/-- F2 at 0x2000. -/
def s2 : State := withBytes 0x2000 f2

/-- Reset with channel 5 in the given state. -/
def withChan (buf : List Byte) (hint : Option Nat) : State :=
  { State.reset with chans := [(5, { buf := buf, hint := hint })] }

/-- Channel 5 after the first push of the spec's scenario W5. -/
def sWait : State := withChan (f2.take 8) (some 14)

/-- A state with the request `r` in flight. -/
def inFlight (s : State) (r : Request) : State := { s with request := some r }

/-- The response an outcome leaves pending. -/
def responseOf : Out → Option Response
  | .next t => t.response
  | .fault _ => none
  | .refused _ => none

/-- The host memory byte an outcome leaves at an address. -/
def byteAfter (a : Nat) : Out → Option Byte
  | .next t => some (t.mem.read a)
  | .fault _ => none
  | .refused _ => none

/-- The channel state an outcome leaves. -/
def chanAfter (c : Nat) : Out → Option Chan
  | .next t => some (t.getChan c)
  | .fault _ => none
  | .refused _ => none

/-- An OK response. -/
def okWith (p : Payload) : Option Response := some { status := .ok, payload := p }

/-- A fault response. -/
def faultWith (e : Status) : Option Response := some { status := e, payload := .empty }

/-! ### Well-formedness: each check refuses an ill-formed term -/

theorem test_wf_base_too_wide : (Instr.fcValid (2 ^ 32) 0).wf Params.suggested = false := by decide
theorem test_wf_chan_too_wide : (Instr.raFlush 2048).wf Params.suggested = false := by decide
theorem test_wf_data_beyond_k : (Instr.raPush 5 1 [0, 0]).wf Params.suggested = false := by decide
theorem test_wf_data_beyond_lanes : (Instr.raPush 5 100 (List.replicate 65 0)).wf Params.suggested = false := by decide +kernel
theorem test_fits_base_too_wide : (Request.mk 0 (2 ^ 32) 0 0 []).fits Params.suggested = false := by decide
theorem test_fits_chan_too_wide : (Request.mk 0 0 0 2048 []).fits Params.suggested = false := by decide
theorem test_fits_data_too_long : (Request.mk 0 0 0 0 (List.replicate 65 0)).fits Params.suggested = false := by decide +kernel
theorem test_legal_suggested : Params.suggested.legal := by decide
theorem test_legal_addr_narrow : ¬ { Params.suggested with addrW := 15 }.legal := by decide
theorem test_legal_frag_small : ¬ { Params.suggested with fragMax := 8 }.legal := by decide
theorem test_legal_frag_large : ¬ { Params.suggested with fragMax := 65536, accCap := 100000 }.legal := by decide
theorem test_legal_cap_small : ¬ { Params.suggested with accCap := 1085 }.legal := by decide

/-! ### Decoding: every operation's word as 30_encoding R100, R101 and 40_codec write it -/

theorem test_decode_rd_sof : decodeTableWord 32 0x00000001 = some (.fcRdSof 0 0) := by decide
theorem test_decode_rd_len : decodeTableWord 32 0x00000101 = some (.fcRdLen 0 0) := by decide
theorem test_decode_rd_hcrc : decodeTableWord 32 0x00000201 = some (.fcRdHcrc 0 0) := by decide
theorem test_decode_rd_sender : decodeTableWord 32 0x00000301 = some (.fcRdSender 0 0) := by decide
theorem test_decode_rd_receiver : decodeTableWord 32 0x00000401 = some (.fcRdReceiver 0 0) := by decide
theorem test_decode_rd_seq : decodeTableWord 32 0x00000501 = some (.fcRdSeq 0 0) := by decide
theorem test_decode_rd_flags : decodeTableWord 32 0x00000601 = some (.fcRdFlags 0 0) := by decide
theorem test_decode_rd_is_ack : decodeTableWord 32 0x00000701 = some (.fcRdIsAck 0 0) := by decide
theorem test_decode_rd_need_ack : decodeTableWord 32 0x00000801 = some (.fcRdNeedAck 0 0) := by decide
theorem test_decode_rd_enc : decodeTableWord 32 0x00000901 = some (.fcRdEnc 0 0) := by decide
theorem test_decode_rd_cmdset : decodeTableWord 32 0x00000A01 = some (.fcRdCmdset 0 0) := by decide
theorem test_decode_rd_cmdid : decodeTableWord 32 0x00000B01 = some (.fcRdCmdid 0 0) := by decide
theorem test_decode_rd_pcrc : decodeTableWord 32 0x00000C01 = some (.fcRdPcrc 0 0) := by decide
theorem test_decode_wr_sof : decodeTableWord 32 0x00550002 = some (.fcWrSof 0x0055 0 0) := by decide
theorem test_decode_wr_len : decodeTableWord 32 0x001B0102 = some (.fcWrLen 0x001B 0 0) := by decide
theorem test_decode_wr_hcrc : decodeTableWord 32 0x00750202 = some (.fcWrHcrc 0x0075 0 0) := by decide
theorem test_decode_wr_sender : decodeTableWord 32 0x00090302 = some (.fcWrSender 0x0009 0 0) := by decide
theorem test_decode_wr_receiver : decodeTableWord 32 0x00C30402 = some (.fcWrReceiver 0x00C3 0 0) := by decide
theorem test_decode_wr_seq : decodeTableWord 32 0x00E00502 = some (.fcWrSeq 0x00E0 0 0) := by decide
theorem test_decode_wr_flags : decodeTableWord 32 0x00A00602 = some (.fcWrFlags 0x00A0 0 0) := by decide
theorem test_decode_wr_is_ack : decodeTableWord 32 0x00010702 = some (.fcWrIsAck 0x0001 0 0) := by decide
theorem test_decode_wr_need_ack : decodeTableWord 32 0x00010802 = some (.fcWrNeedAck 0x0001 0 0) := by decide
theorem test_decode_wr_enc : decodeTableWord 32 0x00050902 = some (.fcWrEnc 0x0005 0 0) := by decide
theorem test_decode_wr_cmdset : decodeTableWord 32 0x003F0A02 = some (.fcWrCmdset 0x003F 0 0) := by decide
theorem test_decode_wr_cmdid : decodeTableWord 32 0x00600B02 = some (.fcWrCmdid 0x0060 0 0) := by decide
theorem test_decode_wr_pcrc : decodeTableWord 32 0xF0FA0C02 = some (.fcWrPcrc 0xF0FA 0 0) := by decide
theorem test_decode_valid : decodeTableWord 32 0x00000003 = some (.fcValid 0 0) := by decide
theorem test_decode_finh : decodeTableWord 32 0x00000004 = some (.fcFinh 0 0) := by decide
theorem test_decode_finp : decodeTableWord 32 0x00000005 = some (.fcFinp 0 0) := by decide
theorem test_decode_payload : decodeTableWord 32 0x00000006 = some (.fcPayload 0 0) := by decide
theorem test_decode_scan : decodeTableWord 32 0x00000010 = some (.scan 0 0) := by decide
theorem test_decode_push : decodeTableWord 32 0x00090020 = some (.raPush 0 9 []) := by decide
theorem test_decode_flush : decodeTableWord 32 0x00000021 = some (.raFlush 0) := by decide
theorem test_decode_status : decodeTableWord 32 0x00000022 = some (.raStatus 0) := by decide
theorem test_decode_reset : decodeTableWord 32 0x00000030 = some .blkReset := by decide

/-- V-FC36 to V-FC39, V-RA19: words the block refuses, each by its own name. -/
theorem test_decode_refusals :
    decode (tableRequest 32 0x00000D01) = .error .reservedFsel ∧ decode (tableRequest 32 0x00001001) = .error .rsvNotZero ∧
      decode (tableRequest 32 0x00010003) = .error .immNotZero ∧ decode (tableRequest 32 0x00000007) = .error .reservedOpc ∧
      decode (tableRequest 32 0x00090120) = .error .fselNotZero := ⟨rfl, rfl, rfl, rfl, rfl⟩

/-- The operands come from the record's fields, and data beyond `k` is ignored (30_encoding R98). -/
theorem test_decode_operands :
    decode { cw := 0x00020020#32, base := 7, vlen := 9, chan := 5, data := [1, 2, 3] } = .ok (.raPush 5 2 [1, 2]) := rfl

/-- The written form of an operation (30_encoding R108): `RA.PUSH 5, ..` with the bytes between braces. -/
theorem test_asm_push : (asm (.raPush 5 3 [0xAB, 0x01])).toList =
    "RA.PUSH 5, ".toList ++ Char.ofNat 123 :: "ab 01 00".toList ++ [Char.ofNat 125] := by decide +kernel

/-! ### Single operations on the spec's vectors (95_test_vectors W1 to W6, V-FC, V-SC, V-RA) -/

theorem test_rd_sof : responseOf (exec (.fcRdSof 0x1000 27) s1) = okWith (.value 0x0055#16) ∧
    responseOf (exec (.fcRdSof 0x2000 14) s2) = okWith (.value 0x0055#16) := by decide +kernel
theorem test_rd_len : responseOf (exec (.fcRdLen 0x1000 27) s1) = okWith (.value 0x001B#16) ∧
    responseOf (exec (.fcRdLen 0x2000 14) s2) = okWith (.value 0x000E#16) := by decide +kernel
theorem test_rd_hcrc : responseOf (exec (.fcRdHcrc 0x1000 27) s1) = okWith (.value 0x0075#16) ∧
    responseOf (exec (.fcRdHcrc 0x2000 14) s2) = okWith (.value 0x0066#16) := by decide +kernel
theorem test_rd_sender : responseOf (exec (.fcRdSender 0x1000 27) s1) = okWith (.value 0x0009#16) ∧
    responseOf (exec (.fcRdSender 0x2000 14) s2) = okWith (.value 0x0009#16) := by decide +kernel
theorem test_rd_receiver : responseOf (exec (.fcRdReceiver 0x1000 27) s1) = okWith (.value 0x00C3#16) ∧
    responseOf (exec (.fcRdReceiver 0x2000 14) s2) = okWith (.value 0x0003#16) := by decide +kernel
theorem test_rd_seq : responseOf (exec (.fcRdSeq 0x1000 27) s1) = okWith (.value 0x00E0#16) ∧
    responseOf (exec (.fcRdSeq 0x2000 14) s2) = okWith (.value 0x064E#16) := by decide +kernel
theorem test_rd_flags : responseOf (exec (.fcRdFlags 0x1000 27) s1) = okWith (.value 0x0000#16) ∧
    responseOf (exec (.fcRdFlags 0x2000 14) s2) = okWith (.value 0x00A0#16) := by decide +kernel
theorem test_rd_is_ack : responseOf (exec (.fcRdIsAck 0x1000 27) s1) = okWith (.value 0x0000#16) ∧
    responseOf (exec (.fcRdIsAck 0x2000 14) s2) = okWith (.value 0x0001#16) := by decide +kernel
theorem test_rd_need_ack : responseOf (exec (.fcRdNeedAck 0x1000 27) s1) = okWith (.value 0x0000#16) ∧
    responseOf (exec (.fcRdNeedAck 0x2000 14) s2) = okWith (.value 0x0001#16) := by decide +kernel
theorem test_rd_enc : responseOf (exec (.fcRdEnc 0x1000 27) s1) = okWith (.value 0x0000#16) ∧
    responseOf (exec (.fcRdEnc 0x2000 14) s2) = okWith (.value 0x0000#16) := by decide +kernel
theorem test_rd_cmdset : responseOf (exec (.fcRdCmdset 0x1000 27) s1) = okWith (.value 0x003F#16) ∧
    responseOf (exec (.fcRdCmdset 0x2000 14) s2) = okWith (.value 0x0048#16) := by decide +kernel
theorem test_rd_cmdid : responseOf (exec (.fcRdCmdid 0x1000 27) s1) = okWith (.value 0x0060#16) ∧
    responseOf (exec (.fcRdCmdid 0x2000 14) s2) = okWith (.value 0x0008#16) := by decide +kernel
theorem test_rd_pcrc : responseOf (exec (.fcRdPcrc 0x1000 27) s1) = okWith (.value 0xF0FA#16) ∧
    responseOf (exec (.fcRdPcrc 0x2000 14) s2) = okWith (.value 0xE8C2#16) := by decide +kernel
/-- V-FC5: PCRC is found at L, not at the view's end. -/
theorem test_rd_pcrc_long_view : responseOf (exec (.fcRdPcrc 0x2000 20) s2) = okWith (.value 0xE8C2#16) := by decide +kernel
/-- V-FC6, V-FC7, V-FC8, V-FC40. -/
theorem test_rd_range_faults : responseOf (exec (.fcRdPcrc 0x2000 13) s2) = faultWith .errRange ∧
    responseOf (exec (.fcRdSeq 0x2000 7) s2) = faultWith .errRange ∧
    responseOf (exec (.fcRdSof 0x2000 0) s2) = faultWith .errRange ∧
    responseOf (exec (.fcRdSof 0xFFFFFFF0 0x20) s2) = faultWith .errRange := by decide +kernel
theorem test_wr_sof : byteAfter 0x2000 (exec (.fcWrSof 0x54 0x2000 14) s2) = some 0x54#8 ∧
    byteAfter 0x2001 (exec (.fcWrSof 0x54 0x2000 14) s2) = some 0x0E#8 := by decide +kernel
theorem test_wr_len : byteAfter 0x2001 (exec (.fcWrLen 0x3FF 0x2000 14) s2) = some 0xFF#8 ∧
    byteAfter 0x2002 (exec (.fcWrLen 0x3FF 0x2000 14) s2) = some 0x07#8 := by decide +kernel
theorem test_wr_hcrc : byteAfter 0x2003 (exec (.fcWrHcrc 0 0x2000 14) s2) = some 0x00#8 ∧
    byteAfter 0x2004 (exec (.fcWrHcrc 0 0x2000 14) s2) = some 0x09#8 := by decide +kernel
theorem test_wr_sender : byteAfter 0x2004 (exec (.fcWrSender 0x0A 0x2000 14) s2) = some 0x0A#8 ∧
    byteAfter 0x2005 (exec (.fcWrSender 0x0A 0x2000 14) s2) = some 0x03#8 := by decide +kernel
theorem test_wr_receiver : byteAfter 0x2005 (exec (.fcWrReceiver 0x77 0x2000 14) s2) = some 0x77#8 ∧
    byteAfter 0x2006 (exec (.fcWrReceiver 0x77 0x2000 14) s2) = some 0x4E#8 := by decide +kernel
theorem test_wr_seq : byteAfter 0x2006 (exec (.fcWrSeq 0xBEEF 0x2000 14) s2) = some 0xEF#8 ∧
    byteAfter 0x2007 (exec (.fcWrSeq 0xBEEF 0x2000 14) s2) = some 0xBE#8 := by decide +kernel
theorem test_wr_flags : byteAfter 0x2008 (exec (.fcWrFlags 0x5A 0x2000 14) s2) = some 0x5A#8 ∧
    byteAfter 0x2009 (exec (.fcWrFlags 0x5A 0x2000 14) s2) = some 0x48#8 := by decide +kernel
theorem test_wr_is_ack : byteAfter 0x2008 (exec (.fcWrIsAck 0 0x2000 14) s2) = some 0x20#8 ∧
    byteAfter 0x2009 (exec (.fcWrIsAck 0 0x2000 14) s2) = some 0x48#8 := by decide +kernel
theorem test_wr_need_ack : byteAfter 0x2008 (exec (.fcWrNeedAck 0 0x2000 14) s2) = some 0x80#8 ∧
    byteAfter 0x2007 (exec (.fcWrNeedAck 0 0x2000 14) s2) = some 0x06#8 := by decide +kernel
theorem test_wr_enc : byteAfter 0x2008 (exec (.fcWrEnc 5 0x2000 14) s2) = some 0xA5#8 ∧
    byteAfter 0x2009 (exec (.fcWrEnc 5 0x2000 14) s2) = some 0x48#8 := by decide +kernel
theorem test_wr_cmdset : byteAfter 0x2009 (exec (.fcWrCmdset 0x3F 0x2000 14) s2) = some 0x3F#8 ∧
    byteAfter 0x200a (exec (.fcWrCmdset 0x3F 0x2000 14) s2) = some 0x08#8 := by decide +kernel
theorem test_wr_cmdid : byteAfter 0x200a (exec (.fcWrCmdid 0x60 0x2000 14) s2) = some 0x60#8 ∧
    byteAfter 0x200b (exec (.fcWrCmdid 0x60 0x2000 14) s2) = some 0x01#8 := by decide +kernel
theorem test_wr_pcrc : byteAfter 0x200c (exec (.fcWrPcrc 0x1234 0x2000 14) s2) = some 0x34#8 ∧
    byteAfter 0x200d (exec (.fcWrPcrc 0x1234 0x2000 14) s2) = some 0x12#8 := by decide +kernel
/-- V-FC13, V-FC14, V-FC17, V-FC19, V-FC42: the value is checked before the view. -/
theorem test_wr_value_faults : responseOf (exec (.fcWrEnc 8 0x2000 14) s2) = faultWith .errValue ∧
    responseOf (exec (.fcWrEnc 8 0x2000 0) s2) = faultWith .errValue ∧
    responseOf (exec (.fcWrLen 0x400 0x2000 14) s2) = faultWith .errValue ∧
    responseOf (exec (.fcWrSof 0x100 0x2000 14) s2) = faultWith .errValue ∧
    responseOf (exec (.fcWrEnc 9 0xFFFFFFF0 0x20) s2) = faultWith .errValue := by decide +kernel
/-- W3, V-FC32, and V-FC33: F1 is valid in a view of 27 or 30 bytes, not in one of 26. -/
theorem test_valid : responseOf (exec (.fcValid 0x1000 27) s1) = okWith (.valid true) ∧
    responseOf (exec (.fcValid 0x1000 30) s1) = okWith (.valid true) ∧
    responseOf (exec (.fcValid 0x1000 26) s1) = okWith (.valid false) := by decide +kernel
/-- V-FC41: a view that ends at the top of host memory is legal. -/
theorem test_valid_top : responseOf (exec (.fcValid 0xFFFFFFF2 14) (withBytes 0xFFFFFFF2 f2)) = okWith (.valid true) := by
  decide +kernel
/-- 40_codec R159's example. -/
theorem test_finh : byteAfter 0x1003 (exec (.fcFinh 0x1000 27) (withBytes 0x1000 (f1.set 3 0))) = some 0x75#8 := by
  decide +kernel
/-- 40_codec R160's example. -/
theorem test_finp : byteAfter 0x1019 (exec (.fcFinp 0x1000 27) (withBytes 0x1000 (f1.take 25))) = some 0xFA#8 ∧
    byteAfter 0x101A (exec (.fcFinp 0x1000 27) (withBytes 0x1000 (f1.take 25))) = some 0xF0#8 := by decide +kernel
/-- 40_codec R161's examples. -/
theorem test_payload : responseOf (exec (.fcPayload 0x1000 27) s1) = okWith (.span 0x100B 14) ∧
    responseOf (exec (.fcPayload 0x2000 14) s2) = okWith (.span 0x200B 1) := by decide +kernel
/-- V-SC9: two bytes of garbage before F2. -/
theorem test_scan_garbage : responseOf (exec (.scan 0x4000 16) (withBytes 0x4000 (0xAA :: 0xBB :: f2))) =
    okWith (.scan { kind := .ok, missing := 0, consumed := 16, frameLen := 14 } 0x4002) := by decide +kernel
/-- V-SC7, V-SC12 to V-SC15, V-SC18, V-SC20. -/
theorem test_scan_core : scanCore .recommended [0x55, 0x55, 0x55, 0x55] = .badHcrc 3 ∧
    scanCore .recommended (f2.set 3 0x67) = .badHcrc 3 ∧ scanCore .recommended (f2.set 11 0x02) = .badPcrc 3 ∧
    scanCore .recommended ([0x55, 0x0C, 0x04, 0xF7] ++ List.replicate 20 0x00) = .badPcrc 3 ∧
    scanCore .recommended [0x55, 0x00, 0x04, 0xBA] = .badPcrc 3 ∧
    scanCore .recommended ((f2.set 11 0x02).take 13) = .needMore 1 0 ∧
    scanCore .recommended (0x00 :: f1.take 10) = .needMore 17 1 := by decide +kernel
/-- W5, first push. -/
theorem test_push_waits : responseOf (exec (.raPush 5 9 (0x00 :: f2.take 8)) State.reset) =
      okWith (.push [] [{ kind := .needMore, missing := 6, consumed := 1, frameLen := 0 }]) ∧
    chanAfter 5 (exec (.raPush 5 9 (0x00 :: f2.take 8)) State.reset) = some { buf := f2.take 8, hint := some 14 } := by
  decide +kernel
/-- W5, second push. -/
theorem test_push_delivers : responseOf (exec (.raPush 5 6 (f2.drop 8)) sWait) =
      okWith (.push [{ chan := 5, len := 14, bytes := f2 }]
        [{ kind := .ok, missing := 0, consumed := 14, frameLen := 14 },
          { kind := .noSof, missing := 0, consumed := 0, frameLen := 0 }]) ∧
    chanAfter 5 (exec (.raPush 5 6 (f2.drop 8)) sWait) = some { buf := [], hint := none } := by decide +kernel
/-- V-RA6, V-RA7: resync finds the next frame; a stray marker right before a frame loses it. -/
theorem test_push_resync : (drain .recommended 5 (f2.set 3 0x67 ++ f2)).frames = [{ chan := 5, len := 14, bytes := f2 }] ∧
    (drain .recommended 5 (0x55 :: f2)).frames = [] := by decide +kernel
theorem test_flush : chanAfter 5 (exec (.raFlush 5) sWait) = some { buf := [], hint := none } := by decide +kernel
/-- V-RA21. -/
theorem test_status : responseOf (exec (.raStatus 5) sWait) = okWith (.status 8 true 14) ∧
    responseOf (exec (.raStatus 6) sWait) = okWith (.status 0 false 0) := by decide +kernel
theorem test_blk_reset : chanAfter 5 (exec .blkReset sWait) = some { buf := [], hint := none } ∧
    responseOf (exec .blkReset sWait) = okWith .empty := by decide +kernel
/-- W1 and W2. -/
theorem test_checksums : crc8 0x77#8 [0x55, 0x1B, 0x04] = 0x75#8 ∧ crc16 0x3692#16 (f1.take 25) = 0xF0FA#16 := by
  decide +kernel
/-- A step performs the request in flight; a word of the table put on the port is performed next. -/
theorem test_step : responseOf (step (inFlight s1 { cw := 0x00000101#32, base := 0x1000, vlen := 27, chan := 0, data := [] })) =
      okWith (.value 27) ∧
    responseOf (step (State.reset.withFetchWord 32 0x00000022)) = okWith (.status 0 false 0) ∧
    responseOf (step (State.reset.withFetchWord 32 0x00000D01)) = faultWith .errOp := by decide +kernel
/-- `FC.FIN` is FINH and then FINP; `RA.FEED` cuts its bytes (30_encoding R109). -/
theorem test_pseudo : fcFin 0x1000 27 =
      [.issue { cw := 0x00000004#32, base := 0x1000, vlen := 27, chan := 0, data := [] },
        .issue { cw := 0x00000005#32, base := 0x1000, vlen := 27, chan := 0, data := [] }] ∧
    raFeed Params.suggested 2 5 [1, 2, 3] =
      [.issue { cw := 0x00020020#32, base := 0, vlen := 0, chan := 5, data := [1, 2] },
        .issue { cw := 0x00010020#32, base := 0, vlen := 0, chan := 5, data := [3] }] := by decide +kernel

/-- V-RA18, P3 row 8: 65 bytes, issued by the host, are answered with ERR_FRAG. -/
theorem test_issue_65_bytes :
    responseOf (runSteps 2 { State.reset with host := [issueOp (.raPush 7 65 (List.replicate 65 0x00#8))] }) =
      faultWith .errFrag := by decide +kernel
/-- P4: F2 byte by byte on channel 0x123; scans at pushes 1, 4 and 14 only (W7). -/
theorem test_feed : (runPushes 0x123 (feedChunks Params.suggested 1 f2) State.reset).map (fun r => (r.frames, r.trace)) =
    some ([{ chan := 0x123, len := 14, bytes := f2 }],
      [{ kind := .needMore, missing := 3, consumed := 0, frameLen := 0 },
        { kind := .needMore, missing := 10, consumed := 0, frameLen := 0 },
        { kind := .ok, missing := 0, consumed := 14, frameLen := 14 },
        { kind := .noSof, missing := 0, consumed := 0, frameLen := 0 }]) := by decide +kernel

/-! ### Witnesses: a state and operands that meet the hypotheses of each statement together -/

/-- A state that is not reset and meets the invariant: F1 in memory, channel 5 waiting for its frame's body, the push
of the missing bytes in flight. -/
def sInv : State :=
  { s1 with
    chans := [(5, { buf := f2.take 8, hint := some 14 })]
    request := some { cw := 0x00060020#32, base := 0, vlen := 0, chan := 5, data := f2.drop 8 } }

theorem sInv_phase : Chan.inPhase .recommended { buf := f2.take 8, hint := some 14 } (.waitBody 14) := by
  simp only [Chan.inPhase]
  decide +kernel

theorem sInv_inv : sInv.Inv where
  memWf := by decide +kernel
  memRange := by decide +kernel
  chansWf := by decide +kernel
  chansRange := by decide +kernel
  phases := fun c => by
    by_cases h : c = 5
    · exact ⟨.waitBody 14, by rw [h]; exact sInv_phase⟩
    · have : sInv.getChan c = Chan.idle := by simp [sInv, State.getChan, sparseGet, Ne.symm h]
      exact ⟨.idle, by rw [this]; exact ⟨rfl, rfl⟩⟩
  requestFits := fun r hr => by
    injection hr with hr
    subst hr
    decide +kernel

theorem witness_DecodeOfEncodeIsIdentity : (Instr.fcValid (2 ^ 32 - 1) 65535).wf Params.suggested = true ∧
    (Instr.raPush 2047 64 (List.replicate 64 0xFF#8)).wf Params.suggested = true ∧
    (Instr.raPush 0 65535 []).wf Params.suggested = true ∧ Instr.blkReset.wf Params.suggested = true := by decide +kernel
theorem witness_DecodedRequestEncodesBack :
    decode { cw := 0xFFFF0C02#32, base := 3, vlen := 4, chan := 9, data := [1] } = .ok (.fcWrPcrc 0xFFFF 3 4) := rfl
theorem witness_ReservedWordsAnswerErrOp : (inFlight s1 (tableRequest 32 0x31)).performsNext (tableRequest 32 0x31) ∧
    reservedWord 0x00000000#32 ∧ reservedWord 0x00000031#32 ∧ reservedWord 0x00001001#32 ∧ reservedWord 0x00000D02#32 ∧
    reservedWord 0x00000103#32 ∧ reservedWord 0x00010001#32 ∧ ¬ reservedWord 0x00000C01#32 ∧
    ¬ reservedWord 0xFFFF0020#32 :=
  ⟨by decide, by decide, by decide, by decide, by decide, by decide, by decide, by decide, by decide⟩
theorem witness_StepPerformsDecodedRequest : (inFlight s1 (tableRequest 32 0x03)).performsNext (tableRequest 32 0x03) ∧
    decodeTableWord 32 0x03 = some (.fcValid 0 0) ∧ decodeTableWord 32 0x07 = none := by decide +kernel
theorem witness_FetchWordIsPerformedNext : decodeTableWord 32 0xFFFF0020 = some (.raPush 0 65535 []) := by decide +kernel
/-- Every range condition of 30_encoding R101 is met at its boundary by a legal view. -/
theorem witness_OneByteFieldReads : 0x1000 + (11 : Half).toNat ≤ 2 ^ s1.params.addrW ∧ 11 ≤ (11 : Half).toNat ∧
    (2 ^ 32 - 1) + (1 : Half).toNat ≤ 2 ^ s1.params.addrW ∧ 1 ≤ (1 : Half).toNat := by decide +kernel
theorem witness_LenAndSeqReads : 0x1000 + (8 : Half).toNat ≤ 2 ^ s1.params.addrW ∧ 3 ≤ (3 : Half).toNat ∧
    8 ≤ (8 : Half).toNat := by decide +kernel
theorem witness_FlagBitReads : 0x1000 + (9 : Half).toNat ≤ 2 ^ s1.params.addrW ∧ 9 ≤ (9 : Half).toNat := by decide +kernel
theorem witness_PcrcRead : 0x1000 + (27 : Half).toNat ≤ 2 ^ s1.params.addrW ∧ 13 ≤ s1.viewLen 0x1000 ∧
    s1.viewLen 0x1000 ≤ (27 : Half).toNat := by decide +kernel
theorem witness_OneByteFieldWrites : 0x1000 + (11 : Half).toNat ≤ 2 ^ s1.params.addrW ∧ (255 : Half).toNat < 256 ∧
    11 ≤ (11 : Half).toNat := by decide +kernel
theorem witness_LenAndSeqWrites : 0x1000 + (8 : Half).toNat ≤ 2 ^ s1.params.addrW ∧ (1023 : Half).toNat < 1024 ∧
    3 ≤ (8 : Half).toNat ∧ 8 ≤ (8 : Half).toNat := by decide +kernel
theorem witness_FlagBitWrites : 0x1000 + (9 : Half).toNat ≤ 2 ^ s1.params.addrW ∧ 9 ≤ (9 : Half).toNat ∧
    (1 : Half).toNat < 2 ∧ (7 : Half).toNat < 8 := by decide +kernel
theorem witness_PcrcWrite : 0x2000 + (14 : Half).toNat ≤ 2 ^ s2.params.addrW ∧ 13 ≤ s2.viewLen 0x2000 ∧
    s2.viewLen 0x2000 ≤ (14 : Half).toNat := by decide +kernel
theorem witness_RangeFaults : 2 ^ s2.params.addrW < 0xFFFFFFF0 + (0x11 : Half).toNat ∧
    (8 : Half).toNat < Field.need .flags ∧ (13 : Half).toNat < s2.viewLen 0x2000 ∧ s2.viewLen 0x1000 < 13 ∧
    (3 : Half).toNat < 4 ∧ (2 : Half).toNat < 3 ∧ (7 : Half).toNat < 2 ^ Field.width .enc := by decide +kernel
theorem witness_ValueFaultExactlyWhenTooWide : 2 ^ Field.width .enc ≤ (8 : Half).toNat ∧
    responseOf (exec (Field.wr .enc 8 0x2000 14) s2) = faultWith .errValue ∧
    responseOf (exec (Field.wr .seq 65535 0x2000 14) s2) = okWith .empty := by decide +kernel
theorem witness_FaultPriority : sInv.performsNext { cw := 0x00060020#32, base := 0, vlen := 0, chan := 5, data := f2.drop 8 } ∧
    decode (tableRequest 32 0x00080902) = .ok (Field.wr .enc 8 0 0) ∧ 2 ^ Field.width .enc ≤ (8 : Half).toNat ∧
    decode (tableRequest 32 0x00410020) = .ok (.raPush 0 65 []) ∧ sInv.params.fragMax < (65 : Half).toNat :=
  ⟨by decide +kernel, rfl, by decide, rfl, by decide⟩
/-- A push within FRAG_MAX that passes ACC_CAP: only under an ACC_CAP smaller than the spec's (42_reassembler R223). -/
theorem witness_PushFaultsOnSizeAndCapacity : State.reset.params.fragMax < (65 : Half).toNat ∧
    (1 : Half).toNat ≤ State.reset.params.fragMax ∧
    { Params.suggested with accCap := 8 }.accCap < (sWait.getChan 5).buf.length + (1 : Half).toNat := by decide +kernel
theorem witness_FaultsChangeNothing : responseOf (exec (.fcFinh 0x1000 3) s1) = faultWith .errRange ∧
    (inFlight s1 (tableRequest 32 0x07)).performsNext (tableRequest 32 0x07) ∧
    responseOf (step (inFlight s1 (tableRequest 32 0x07))) = faultWith .errOp := by decide +kernel
theorem witness_OnlyMutatorsWriteInsideTheirView : byteAfter 0x1003 (exec (.fcWrHcrc 0 0x1000 27) s1) ≠ some (s1.mem.read 0x1003) ∧
    viewOf (.raStatus 5) = none := by decide +kernel
theorem witness_ChannelsAreIndependent : chanOf (.raFlush 5) = some 5 ∧ (6 : Nat) ≠ 5 ∧ sWait.params = sInv.params ∧
    sWait.getChan 5 = sInv.getChan 5 ∧ chanOf (.scan 0 0) = none := by decide +kernel
theorem witness_CodecAndScanDependOnlyOnTheirView : viewOf (.fcFinp 0x1000 27) = some (0x1000, 27) ∧
    s1.params = sInv.params ∧ s1.mem = sInv.mem := by decide +kernel
theorem witness_ParametersNeverChange : ∃ t, step sInv = .next t := ⟨_, rfl⟩
theorem witness_ValidDecidesValidity : 0xFFFFFFF2 + (14 : Half).toNat ≤ 2 ^ s1.params.addrW ∧
    responseOf (exec (.fcValid 0xFFFFFFF2 14) s1) = okWith (.valid false) := by decide +kernel
theorem witness_FinhStoresHeaderChecksum : 0x1000 + (4 : Half).toNat ≤ 2 ^ s1.params.addrW ∧ 4 ≤ (4 : Half).toNat := by
  decide +kernel
theorem witness_FinpStoresTrailingChecksum : 0x1000 + (27 : Half).toNat ≤ 2 ^ s1.params.addrW ∧ 13 ≤ s1.viewLen 0x1000 ∧
    s1.viewLen 0x1000 ≤ (27 : Half).toNat ∧ (f1.take 25).length = s1.viewLen 0x1000 - 2 ∧ bytesAt s1 0x1000 (f1.take 25) := by
  decide +kernel
theorem witness_PayloadGivesSpan : 0x2000 + (14 : Half).toNat ≤ 2 ^ s2.params.addrW ∧ 13 ≤ s2.viewLen 0x2000 ∧
    s2.viewLen 0x2000 ≤ (14 : Half).toNat := by decide +kernel
theorem witness_FinalizeMakesFrameValid : 0x1000 + (27 : Half).toNat ≤ 2 ^ s1.params.addrW ∧ s1.mem.read 0x1000 = 0x55#8 ∧
    13 ≤ s1.viewLen 0x1000 ∧ s1.viewLen 0x1000 ≤ (27 : Half).toNat := by decide +kernel
theorem witness_ReadReturnsWrittenValue : responseOf (exec (Field.wr .len 1023 0x1000 27) s1) = okWith .empty ∧
    responseOf (exec (Field.wr .pcrc 0xFFFF 0x1000 27) s1) = okWith .empty := by decide +kernel
theorem witness_FieldWritesAreIndependent : ¬ Field.affects .isAck .enc ∧ ¬ Field.affects .pcrc .len ∧
    responseOf (exec (Field.wr .isAck 1 0x1000 27) s1) = okWith .empty := by decide +kernel
theorem witness_ScanAnswersScanCore : 0x1000 + (27 : Half).toNat ≤ 2 ^ s1.params.addrW ∧ f1.length = (27 : Half).toNat ∧
    bytesAt s1 0x1000 f1 ∧ scanCore s1.params.ck f1 = .ok 27 27 ∧ scanCore s1.params.ck [] = .noSof := by decide +kernel
theorem witness_ScanCoreFollowsSteps : firstMarkerAt (0x00 :: f2) 1 ∧
    14 = (byteAt (0x00 :: f2) 2).toNat + 256 * ((byteAt (0x00 :: f2) 3).toNat % 4) ∧ ∀ b ∈ [0x00#8, 0x11#8], b ≠ 0x55#8 := by decide +kernel
theorem witness_ScanPrefixStability : scanCore .recommended f2 = .ok 14 14 ∧
    scanCore .recommended [0x55, 0x55, 0x55, 0x55] = .badHcrc 3 ∧ scanCore .recommended [0x55, 0x00, 0x04, 0xBA] = .badPcrc 3 ∧
    scanCore .recommended [0x55] = .needMore 3 0 ∧ scanCore .recommended [0x00] = .noSof ∧
    firstMarkerAt ([0x00] ++ [0x55#8]) 1 := by decide +kernel
/-- A frame of 14 bytes at offset 1: flips of covered bytes at both ends of both covered ranges change the checksum. -/
theorem witness_ScanFindsEmbeddedFrame : holdsFrame (0x00 :: f2) 1 14 ∧ hdrOk .recommended (0x00 :: f2) 1 = true ∧
    pktOk .recommended (0x00 :: f2) 1 14 = true ∧
    (∀ i ∈ [2, 3], crc8 0x77#8 (slice (flipBit (0x00 :: f2) i 7) 1 4) ≠ crc8 0x77#8 (slice (0x00 :: f2) 1 4)) ∧
    (∀ i ∈ [5, 12], crc16 0x3692#16 (slice (flipBit (0x00 :: f2) i 0) 1 13) ≠ crc16 0x3692#16 (slice (0x00 :: f2) 1 13)) := by
  decide +kernel
/-- The last clause's premises: F2 cut after 10 bytes. -/
theorem witness_ScanFindsEmbeddedFrame_short : firstMarkerAt (f2.take 10) 0 ∧ 4 ≤ (f2.take 10).length - 0 ∧
    hdrOk .recommended (f2.take 10) 0 = true ∧ 13 ≤ declaredLen (f2.take 10) 0 ∧
    (f2.take 10).length - 0 < declaredLen (f2.take 10) 0 := by decide +kernel
theorem witness_ScannedFramesAreValid : responseOf (exec (.scan 0x1000 27) s1) =
    okWith (.scan { kind := .ok, missing := 0, consumed := 27, frameLen := 27 } 0x1000) := by decide +kernel
/-- Gate shut: hint 14 and 13 bytes; gate open: hint 14 and 14 bytes. -/
theorem witness_PushAppendsAndScans : (6 : Half).toNat ≤ sWait.params.fragMax ∧
    (sWait.getChan 5).buf.length + (6 : Half).toNat ≤ sWait.params.accCap ∧ (f2.drop 8).length = (6 : Half).toNat ∧
    (sWait.getChan 5).hint = some 14 ∧ (sWait.getChan 5).buf.length + (5 : Half).toNat < 14 ∧
    14 ≤ (sWait.getChan 5).buf.length + (6 : Half).toNat := by decide +kernel
theorem witness_DrainFollowsRecoverySteps : scanCore .recommended (f2.take 3) = .needMore 1 0 ∧
    scanCore .recommended (f2.take 4) = .needMore 10 0 := by decide +kernel
theorem witness_PushScanBounds : scanCore .recommended f2 = .ok 14 14 ∧ scanCore .recommended (f2.set 3 0) = .badHcrc 3 ∧
    scanCore .recommended (f2.set 12 0) = .badPcrc 3 := by decide +kernel
theorem witness_StatusReportsChannel : (sWait.getChan 5).hint = some 14 ∧ (sWait.getChan 6).hint = none := by decide +kernel
theorem witness_ResetEventDropsRequest : ({ sInv with host := [.resetEvent] } : State).host = .resetEvent :: [] := rfl
theorem witness_StepKeepsInvariant : sInv.Inv ∧ ∃ t, step sInv = .next t := ⟨sInv_inv, _, rfl⟩
theorem witness_ChannelStatesAreExact : sInv.Inv ∧ ∃ t, step sInv = .next t := ⟨sInv_inv, _, rfl⟩
theorem witness_BufferBoundAndNoOverflow : sInv.Inv ∧ (64 : Half).toNat ≤ sInv.params.fragMax ∧ sInv.params.legal :=
  ⟨sInv_inv, by decide, by decide⟩
theorem witness_HintGateChangesOnlyTheTrace : Chan.inPhase .recommended { buf := f2.take 8, hint := some 14 } (.waitBody 14) ∧
    (f2.take 8 ++ [0x00#8, 0x00, 0x00, 0x00, 0x00]).length < 14 := ⟨sInv_phase, by decide⟩
theorem witness_ChunkingDoesNotChangeFrames : State.reset.params.legal ∧ State.reset.getChan 5 = { buf := [], hint := none } ∧
    ∀ d ∈ [f1, [], f2.take 3, List.replicate 64 0x55#8], d.length ≤ State.reset.params.fragMax := by decide +kernel
theorem witness_PushMachineRefinesPush : (6 : Half).toNat ≤ Params.suggested.fragMax ∧
    (f2.take 8).length + (6 : Half).toNat ≤ Params.suggested.accCap ∧ Params.suggested.fragMax < (65 : Half).toNat ∧
    { Params.suggested with accCap := 8 }.accCap < (f2.take 8).length + (1 : Half).toNat := by decide +kernel
theorem witness_ResponsesFitTheirRecord : sInv.Inv ∧ sInv.params.legal ∧ (Instr.raStatus 5).wf sInv.params = true ∧
    responseOf (exec (.raStatus 5) sInv) = okWith (.status 8 true 14) :=
  ⟨sInv_inv, by decide, by decide, by decide +kernel⟩
/-- An empty script. -/
theorem witness_HostActsBetweenOperations_idle : s1.request = none ∧ s1.host = [] := ⟨rfl, rfl⟩
/-- A store that ends at the top of host memory. -/
theorem witness_HostActsBetweenOperations_store :
    ({ s1 with host := [.store (2 ^ 32 - 2) [0x01#8, 0x02]] } : State).request = none ∧
    (2 ^ 32 - 2) + ([0x01#8, 0x02]).length ≤ 2 ^ s1.params.addrW := by decide +kernel
/-- The request with the greatest base and channel that fit; a request whose base and data do not fit. -/
theorem witness_HostActsBetweenOperations_issue :
    ({ s1 with host := [.issue (chanRequest 0x00000022#32 2047 [])] } : State).request = none ∧
    (Request.mk 0x00000003#32 (2 ^ 32 - 1) 0 2047 []).fits s1.params = true ∧
    (Request.mk 0x00000003#32 (2 ^ 32) 0 2047 (List.replicate 65 0x00#8)).fits s1.params = false := by decide +kernel
/-- A response read. -/
theorem witness_HostActsBetweenOperations_read :
    ({ s1 with host := [.readResponse], response := okWith .empty } : State).request = none := rfl
theorem witness_OnlyHostErrorsStop :
    (match step { s1 with host := [.store (2 ^ 32) [0x01#8]] } with
      | .fault e => decide (e = .hostStoreOutsideMemory) | _ => false) = true ∧
    2 ^ s1.params.addrW < 2 ^ 32 + ([0x01#8]).length := by decide +kernel
/-- The spec's P4 as a host script: 14 pushes, 28 steps. -/
theorem witness_FeedIsItsPushes :
    ({ State.reset with host := feedActs 0x123 (f2.map fun b => [b]) } : State).request = none ∧
    State.reset.params.legal ∧ 0x123 < 2 ^ State.reset.params.chanIdW ∧
    (∀ d ∈ f2.map (fun b => [b]), d.length ≤ State.reset.params.fragMax) ∧
    (runPushes 0x123 (f2.map fun b => [b]) State.reset).isSome = true := by decide +kernel

end Sys2Proof.Tests
end

section
/-! The host's turn, act by act, and what a step does with no request in flight (00_scope R13). -/

namespace Sys2Proof.Machine

/-- With no request in flight, asserted reset event or not, the step is the host's turn. -/
theorem step_of_request_none {s : State} (hreq : s.request = none) : step s = s.hostTurn := by
  rcases step_cases s with ⟨-, hstep⟩ | ⟨-, r, hr, -⟩ | ⟨-, -, hstep⟩
  · exact hstep
  · simp [hreq] at hr
  · exact hstep

theorem hostTurn_of_host_nil {s : State} (h : s.host = []) : s.hostTurn = .next s := by
  simp [State.hostTurn, h]

theorem hostTurn_issue {s : State} {r : Request} {rest : List HostAct} (h : s.host = .issue r :: rest) :
    s.hostTurn = .next { s with request := some (requestOnPort s.params r), host := rest } := by
  simp [State.hostTurn, h]

theorem hostTurn_store {s : State} {addr : Nat} {bytes : List Byte} {rest : List HostAct}
    (h : s.host = .store addr bytes :: rest) (hfit : addr + bytes.length ≤ 2 ^ s.params.addrW) :
    s.hostTurn = .next { s with mem := s.mem.writeBytes addr bytes, host := rest } := by
  simp [State.hostTurn, h, hfit]

theorem hostTurn_readResponse {s : State} {rest : List HostAct} (h : s.host = .readResponse :: rest) :
    s.hostTurn = .next { s with response := none, host := rest } := by
  simp [State.hostTurn, h]

/-- Inside the run of bytes written. -/
theorem Memory.read_writeBytes_inside (m : Memory) (a : Nat) {bs : List Byte} {i : Nat} (hi : i < bs.length) :
    (m.writeBytes a bs).read (a + i) = byteAt bs i := by
  simp [Memory.read_writeBytes, byteAt, hi]

/-- The frame of a run of bytes written. -/
theorem Memory.read_writeBytes_outside (m : Memory) {a b : Nat} {bs : List Byte} (hb : b < a ∨ a + bs.length ≤ b) :
    (m.writeBytes a bs).read b = m.read b := by
  rw [Memory.read_writeBytes, if_neg (by omega)]

/-- Settles O56: each clause is the host's turn at its act, with the memory laws for a store and the request-port laws
for an issued request. -/
theorem hostActsBetweenOperations : Obligations.HostActsBetweenOperations := by
  intro s hreq
  rw [step_of_request_none hreq]
  refine ⟨hostTurn_of_host_nil, ?store, ?issue, fun _ => hostTurn_readResponse⟩
  case store =>
    intro addr bytes rest hhost hfit
    exact ⟨_, hostTurn_store hhost hfit, rfl, fun _ => Memory.read_writeBytes_inside s.mem addr,
      fun _ => Memory.read_writeBytes_outside s.mem⟩
  case issue =>
    intro r rest hhost
    exact ⟨requestOnPort s.params r, hostTurn_issue hhost, requestOnPort_fits s.params r, rfl, rfl, portField_of_lt,
      portField_of_lt, rfl, requestOnPort_of_fits⟩

end Sys2Proof.Machine
end

section
/-! The state after reset (10_state R44), and the step that performs a request in flight. -/

namespace Sys2Proof.Machine

@[simp] theorem State.getChan_reset (c : Nat) : State.reset.getChan c = Chan.idle := rfl

/-- Settles O46: no channel is listed after reset, and both ports are empty. -/
theorem resetStateIsIdle : Obligations.ResetStateIsIdle :=
  ⟨State.getChan_reset, rfl, rfl⟩

theorem Chan.idle_inPhase (ck : CkChoice) : Chan.idle.inPhase ck .idle := ⟨rfl, rfl⟩

/-- Settles O47: the two tables list nothing, every channel is IDLE, and no request is in flight. -/
theorem resetMeetsInvariant : Obligations.ResetMeetsInvariant where
  memWf := ⟨.nil, nofun⟩
  memRange := nofun
  chansWf := ⟨.nil, nofun⟩
  chansRange := nofun
  phases _ := ⟨.idle, Chan.idle_inPhase _⟩
  requestFits := nofun

theorem perform_of_decode_ok {r : Request} {i : Instr} (h : decode r = .ok i) (s : State) :
    perform r s = exec i s := by
  simp [perform, h]

theorem perform_of_decode_error {r : Request} {e : DecodeError} (h : decode r = .error e) (s : State) :
    perform r s = .next (s.raise .errOp) := by
  simp [perform, h]

theorem step_of_performsNext {s : State} {r : Request} (h : s.performsNext r) : step s = perform r s.takeRequest := by
  obtain ⟨hreq, hreset⟩ := h
  simp [step, hreq, hreset]

/-- Settles O5: the step performs the request on the state with the port taken, and the decoder says which of the two
things performing it is. -/
theorem stepPerformsDecodedRequest : Obligations.StepPerformsDecodedRequest := by
  intro s r hnext
  rw [step_of_performsNext hnext]
  exact ⟨fun i hi => perform_of_decode_ok hi _, fun e he => perform_of_decode_error he _⟩

theorem decodeTableWord_eq_some {nbits w : Nat} {i : Instr} :
    decodeTableWord nbits w = some i ↔ decode (tableRequest nbits w) = .ok i := by
  unfold decodeTableWord
  cases decode (tableRequest nbits w) <;> simp

/-- Settles O6: a request that withRequest puts on the port is performed by the next step. -/
theorem fetchWordIsPerformedNext : Obligations.FetchWordIsPerformedNext := by
  intro s w i hw
  calc step (s.withFetchWord 32 w)
      = perform (tableRequest 32 w) (s.withFetchWord 32 w).takeRequest := step_withRequest s (tableRequest 32 w)
    _ = exec i (s.withFetchWord 32 w).takeRequest := perform_of_decode_ok (decodeTableWord_eq_some.mp hw) _

end Sys2Proof.Machine
end

section
/-! The codec and the scanner (10_state R37): two runs from states with the same parameters and the same bytes in the
view answer alike, and each changes host memory and the response port at most. -/

namespace Sys2Proof.Machine

/-- Two states with the same parameters and the same bytes in the view `(base, n)`. -/
structure SameView (base : Nat) (n : Half) (s₁ s₂ : State) : Prop where
  params : s₁.params = s₂.params
  read : ∀ a, base ≤ a → a < base + n.toNat → s₁.mem.read a = s₂.mem.read a

/-- The outcomes `o₁` on `s₁` and `o₂` on `s₂` answer with one response, leave the same bytes in the view `(base, n)`,
and change nothing but host memory and the response port. -/
def AnswerAlike (base : Nat) (n : Half) (s₁ s₂ : State) (o₁ o₂ : Out) : Prop :=
  ∃ (m₁ m₂ : Memory) (r : Response),
    o₁ = .next { s₁ with mem := m₁, response := some r } ∧
    o₂ = .next { s₂ with mem := m₂, response := some r } ∧
    ∀ a, base ≤ a → a < base + n.toNat → m₁.read a = m₂.read a

namespace SameView

variable {base : Nat} {n : Half} {s₁ s₂ : State}

theorem refl (base : Nat) (n : Half) (s : State) : SameView base n s s := ⟨rfl, fun _ _ _ => rfl⟩

/-! What is read from the view. -/

theorem viewByte (h : SameView base n s₁ s₂) {i : Nat} (hi : i < n.toNat) :
    s₁.viewByte base i = s₂.viewByte base i :=
  h.read _ (by omega) (by omega)

theorem viewBytes (h : SameView base n s₁ s₂) (i : Nat) {j : Nat} (hj : j ≤ n.toNat) :
    s₁.viewBytes base i j = s₂.viewBytes base i j := by
  refine List.map_congr_left fun k hk => h.viewByte ?_
  have := List.mem_range.mp hk
  omega

theorem viewLen (h : SameView base n s₁ s₂) (hn : 3 ≤ n.toNat) : s₁.viewLen base = s₂.viewLen base := by
  simp (disch := omega) only [State.viewLen, h.viewByte]

/-- FC.VALID stops before it reads a byte outside the view: each length is checked before the reads it bounds. -/
theorem frameValid (h : SameView base n s₁ s₂) : s₁.frameValid base n.toNat = s₂.frameValid base n.toNat := by
  simp only [State.frameValid, minFrame]
  by_cases hn : 13 ≤ n.toNat
  · rw [h.viewLen (by omega), h.params]
    by_cases hL : s₂.viewLen base ≤ n.toNat
    · simp (disch := omega) only [h.viewByte, h.viewBytes]
    · simp [hL]
  · simp [hn]

/-! The endings of an operation. -/

theorem raise (h : SameView base n s₁ s₂) (e : Status) :
    AnswerAlike base n s₁ s₂ (.next (s₁.raise e)) (.next (s₂.raise e)) :=
  ⟨s₁.mem, s₂.mem, _, rfl, rfl, h.read⟩

theorem reply (h : SameView base n s₁ s₂) {p₁ p₂ : Payload} (hp : p₁ = p₂) :
    AnswerAlike base n s₁ s₂ (.next (s₁.reply p₁)) (.next (s₂.reply p₂)) := by
  subst hp
  exact ⟨s₁.mem, s₂.mem, _, rfl, rfl, h.read⟩

theorem writeByte (h : SameView base n s₁ s₂) (a : Nat) (v : Byte) :
    SameView base n (s₁.writeByte a v) (s₂.writeByte a v) where
  params := h.params
  read b hb hb' := by simp only [State.writeByte_mem, Memory.read_write, h.read b hb hb']

theorem write_reply (h : SameView base n s₁ s₂) {a : Nat} {v₁ v₂ : Byte} (hv : v₁ = v₂) :
    AnswerAlike base n s₁ s₂ (.next ((s₁.writeByte a v₁).reply .empty)) (.next ((s₂.writeByte a v₂).reply .empty)) := by
  subst hv
  exact ⟨_, _, _, rfl, rfl, (h.writeByte a v₁).read⟩

theorem write_write_reply (h : SameView base n s₁ s₂) {a b : Nat} {u₁ u₂ v₁ v₂ : Byte} (hu : u₁ = u₂) (hv : v₁ = v₂) :
    AnswerAlike base n s₁ s₂ (.next (((s₁.writeByte a u₁).writeByte b v₁).reply .empty))
      (.next (((s₂.writeByte a u₂).writeByte b v₂).reply .empty)) := by
  subst hu hv
  exact ⟨_, _, _, rfl, rfl, ((h.writeByte a u₁).writeByte b v₁).read⟩

theorem storePcrc_reply (h : SameView base n s₁ s₂) {len : Nat} {p₁ p₂ : Half} (hp : p₁ = p₂) :
    AnswerAlike base n s₁ s₂ (.next ((s₁.storePcrc base len p₁).reply .empty))
      (.next ((s₂.storePcrc base len p₂).reply .empty)) :=
  h.write_write_reply (congrArg loByte hp) (congrArg hiByte hp)

/-! The checks in front of an operation: both runs take the same branch. -/

theorem onValue (h : SameView base n s₁ s₂) {v : Half} {w : Nat} {b₁ b₂ : Out} (hb : AnswerAlike base n s₁ s₂ b₁ b₂) :
    AnswerAlike base n s₁ s₂ (onValue s₁ v w b₁) (onValue s₂ v w b₂) := by
  unfold Machine.onValue
  split
  · exact hb
  · exact h.raise _

theorem onLegalView (h : SameView base n s₁ s₂) {b₁ b₂ : Out} (hb : AnswerAlike base n s₁ s₂ b₁ b₂) :
    AnswerAlike base n s₁ s₂ (onLegalView s₁ base n b₁) (onLegalView s₂ base n b₂) := by
  unfold Machine.onLegalView
  rw [h.params]
  split
  · exact hb
  · exact h.raise _

theorem onView (h : SameView base n s₁ s₂) {need : Nat} {b₁ b₂ : Out}
    (hb : need ≤ n.toNat → AnswerAlike base n s₁ s₂ b₁ b₂) :
    AnswerAlike base n s₁ s₂ (onView s₁ base n need b₁) (onView s₂ base n need b₂) := by
  refine h.onLegalView ?_
  split
  · next hn => exact hb hn
  · exact h.raise _

theorem onFrame (h : SameView base n s₁ s₂) {b₁ b₂ : Nat → Out}
    (hb : ∀ len, 13 ≤ len → len ≤ n.toNat → AnswerAlike base n s₁ s₂ (b₁ len) (b₂ len)) :
    AnswerAlike base n s₁ s₂ (onFrame s₁ base n b₁) (onFrame s₂ base n b₂) := by
  refine h.onView fun hn => ?_
  rw [h.viewLen hn]
  split
  · next hL => exact hb _ hL.1 hL.2
  · exact h.raise _

end SameView

/-- The codec and the scanner are functions of their operands, the parameters and the bytes of the view: every read an
operation makes is inside the view by the checks in front of it. -/
theorem exec_answerAlike {i : Instr} {base : Nat} {n : Half} {s₁ s₂ : State} (hi : viewOf i = some (base, n))
    (h : SameView base n s₁ s₂) : AnswerAlike base n s₁ s₂ (exec i s₁) (exec i s₂) := by
  cases i with
  | fcRdSof | fcRdLen | fcRdHcrc | fcRdSender | fcRdReceiver | fcRdSeq | fcRdFlags | fcRdIsAck | fcRdNeedAck | fcRdEnc
  | fcRdCmdset | fcRdCmdid =>
    cases hi
    exact h.onView fun hn => h.reply (by simp (disch := omega) only [h.viewByte])
  | fcRdPcrc =>
    cases hi
    simp only [exec, execFcRdPcrc]
    exact h.onFrame fun len _ _ => h.reply (by simp (disch := omega) only [h.viewByte])
  | fcWrSof | fcWrHcrc | fcWrSender | fcWrReceiver | fcWrFlags | fcWrCmdset | fcWrCmdid =>
    cases hi
    exact h.onValue (h.onView fun _ => h.write_reply rfl)
  | fcWrIsAck | fcWrNeedAck | fcWrEnc =>
    cases hi
    exact h.onValue (h.onView fun hn => h.write_reply (by rw [h.viewByte (by omega)]))
  | fcWrLen =>
    cases hi
    exact h.onValue (h.onView fun hn => h.write_write_reply rfl (by rw [h.viewByte (by omega)]))
  | fcWrSeq =>
    cases hi
    exact h.onView fun _ => h.write_write_reply rfl rfl
  | fcWrPcrc =>
    cases hi
    simp only [exec, execFcWrPcrc]
    exact h.onFrame fun _ _ _ => h.storePcrc_reply rfl
  | fcValid =>
    cases hi
    exact h.onLegalView (h.reply (by rw [h.frameValid]))
  | fcFinh =>
    cases hi
    exact h.onView fun hn => h.write_reply (by rw [h.params, h.viewBytes 0 (by omega)])
  | fcFinp =>
    cases hi
    simp only [exec, execFcFinp]
    exact h.onFrame fun len _ _ => h.storePcrc_reply (by rw [h.params, h.viewBytes 0 (by omega)])
  | fcPayload =>
    cases hi
    simp only [exec, execFcPayload]
    exact h.onFrame fun _ _ _ => h.reply rfl
  | scan =>
    cases hi
    exact h.onLegalView (h.reply (by rw [h.params, h.viewBytes 0 le_rfl]))
  | raPush | raFlush | raStatus | blkReset => cases hi

/-- An operation on a view answers once, and changes host memory and the response port at most. -/
theorem exec_of_viewOf {i : Instr} {base : Nat} {n : Half} (hi : viewOf i = some (base, n)) (s : State) :
    ∃ (m : Memory) (r : Response), exec i s = .next { s with mem := m, response := some r } := by
  obtain ⟨m, -, r, hexec, -, -⟩ := exec_answerAlike hi (SameView.refl base n s)
  exact ⟨m, r, hexec⟩

/-- Settles O22: the two runs answer alike, and a run on a view keeps the channel table. -/
theorem codecAndScanDependOnlyOnTheirView : Obligations.CodecAndScanDependOnlyOnTheirView := by
  intro i s₁ s₂ t₁ t₂ base n hi hparams hread h₁ h₂
  obtain ⟨m₁, m₂, r, he₁, he₂, hm⟩ := exec_answerAlike hi ⟨hparams, hread⟩
  cases he₁.symm.trans h₁
  cases he₂.symm.trans h₂
  exact ⟨rfl, hm, rfl⟩

end Sys2Proof.Machine
end

section
/-! The reassembler (10_state R36): an operation on channel `c` is a function of `ch[c]` and the parameters, and writes
`ch[c]` and the response port at most. -/

namespace Sys2Proof.Machine

/-- The outcomes `o₁` on `s₁` and `o₂` on `s₂` answer with one response, leave the same `ch[c]`, and change nothing but
`ch[c]` and the response port. -/
def AnswerAlikeOnChan (c : Nat) (s₁ s₂ : State) (o₁ o₂ : Out) : Prop :=
  ∃ (t₁ t₂ : State) (r : Response),
    o₁ = .next { s₁ with chans := t₁.chans, response := some r } ∧
    o₂ = .next { s₂ with chans := t₂.chans, response := some r } ∧
    t₁.getChan c = t₂.getChan c ∧ ∀ d, d ≠ c → t₁.getChan d = s₁.getChan d

theorem answerAlikeOnChan_raise {c : Nat} {s₁ s₂ : State} (hc : s₁.getChan c = s₂.getChan c) (e : Status) :
    AnswerAlikeOnChan c s₁ s₂ (.next (s₁.raise e)) (.next (s₂.raise e)) :=
  ⟨s₁, s₂, _, rfl, rfl, hc, fun _ _ => rfl⟩

theorem answerAlikeOnChan_reply {c : Nat} {s₁ s₂ : State} (hc : s₁.getChan c = s₂.getChan c) (p : Payload) :
    AnswerAlikeOnChan c s₁ s₂ (.next (s₁.reply p)) (.next (s₂.reply p)) :=
  ⟨s₁, s₂, _, rfl, rfl, hc, fun _ _ => rfl⟩

theorem answerAlikeOnChan_setChan_reply (c : Nat) (s₁ s₂ : State) (ch : Chan) (p : Payload) :
    AnswerAlikeOnChan c s₁ s₂ (.next ((s₁.setChan c ch).reply p)) (.next ((s₂.setChan c ch).reply p)) :=
  ⟨s₁.setChan c ch, s₂.setChan c ch, _, rfl, rfl, by simp, fun d hd => by simp [State.getChan_setChan, hd]⟩

theorem exec_answerAlikeOnChan {i : Instr} {c : Nat} {s₁ s₂ : State} (hi : chanOf i = some c)
    (hparams : s₁.params = s₂.params) (hc : s₁.getChan c = s₂.getChan c) :
    AnswerAlikeOnChan c s₁ s₂ (exec i s₁) (exec i s₂) := by
  cases i with
  | raPush c k data =>
    cases hi
    simp only [exec, execRaPush, hparams, hc]
    split
    · exact answerAlikeOnChan_raise hc _
    · split
      · exact answerAlikeOnChan_raise hc _
      · exact answerAlikeOnChan_setChan_reply ..
  | raFlush c =>
    cases hi
    exact answerAlikeOnChan_setChan_reply ..
  | raStatus c =>
    cases hi
    simp only [exec, execRaStatus, hc]
    exact answerAlikeOnChan_reply hc _
  | _ => cases hi

/-- An operation on a channel answers once, and changes that channel and the response port at most. -/
theorem exec_of_chanOf {i : Instr} {c : Nat} (hi : chanOf i = some c) (s : State) :
    ∃ (t : State) (r : Response), exec i s = .next { s with chans := t.chans, response := some r } ∧
      ∀ d, d ≠ c → t.getChan d = s.getChan d := by
  obtain ⟨t, -, r, hexec, -, -, hframe⟩ := exec_answerAlikeOnChan hi (s₁ := s) rfl rfl
  exact ⟨t, r, hexec, hframe⟩

/-- Every operation works on a view, on a channel, or is BLK.RESET. -/
theorem viewOf_or_chanOf_or_blkReset (i : Instr) :
    (∃ base n, viewOf i = some (base, n)) ∨ (∃ c, chanOf i = some c) ∨ i = .blkReset := by
  cases i with
  | raPush c | raFlush c | raStatus c => exact .inr (.inl ⟨c, rfl⟩)
  | blkReset => exact .inr (.inr rfl)
  | _ => exact .inl ⟨_, _, rfl⟩

/-- Settles O21: the frame and the two runs of an operation on a channel; an operation that names none and is not
BLK.RESET works on a view. -/
theorem channelsAreIndependent : Obligations.ChannelsAreIndependent := by
  refine ⟨?frame, ?alike, ?noChannel⟩
  case frame =>
    intro i s t c d hi hexec hd
    obtain ⟨u, r, he, hframe⟩ := exec_of_chanOf hi s
    cases he.symm.trans hexec
    exact ⟨hframe d hd, rfl⟩
  case alike =>
    intro i s₁ s₂ t₁ t₂ c hi hparams hc h₁ h₂
    obtain ⟨u₁, u₂, r, he₁, he₂, hsame, -⟩ := exec_answerAlikeOnChan hi hparams hc
    cases he₁.symm.trans h₁
    cases he₂.symm.trans h₂
    exact ⟨rfl, hsame⟩
  case noChannel =>
    intro i s t hi hne hexec
    rcases viewOf_or_chanOf_or_blkReset i with ⟨base, n, hview⟩ | ⟨c, hchan⟩ | hreset
    · obtain ⟨m, r, he⟩ := exec_of_viewOf hview s
      cases he.symm.trans hexec
      rfl
    · simp [hi] at hchan
    · exact absurd hreset hne

end Sys2Proof.Machine
end

section
/-! What every operation and every step keeps (10_state R39, R41). -/

namespace Sys2Proof.Machine

/-- Every operation answers once, and changes host memory, the channel table and the response port at most. -/
theorem exec_answers (i : Instr) (s : State) :
    ∃ (m : Memory) (chans : List (Nat × Chan)) (r : Response),
      exec i s = .next { s with mem := m, chans := chans, response := some r } := by
  rcases viewOf_or_chanOf_or_blkReset i with ⟨base, n, hview⟩ | ⟨c, hchan⟩ | rfl
  · obtain ⟨m, r, he⟩ := exec_of_viewOf hview s
    exact ⟨m, s.chans, r, he⟩
  · obtain ⟨t, r, he, -⟩ := exec_of_chanOf hchan s
    exact ⟨s.mem, t.chans, r, he⟩
  · exact ⟨s.mem, [], _, rfl⟩

/-- Settles O19: each operation answers, and the fields it can change are not the request port, the parameters or the
host's script. -/
theorem everyOperationAnswersOnce : Obligations.EveryOperationAnswersOnce := by
  intro i s
  obtain ⟨m, chans, r, he⟩ := exec_answers i s
  exact ⟨_, r, he, rfl, rfl, rfl, rfl⟩

theorem exec_params {i : Instr} {s t : State} (h : exec i s = .next t) : t.params = s.params := by
  obtain ⟨m, chans, r, he⟩ := exec_answers i s
  cases he.symm.trans h
  rfl

theorem perform_params {r : Request} {s t : State} (h : perform r s = .next t) : t.params = s.params := by
  rcases perform_cases r s with ⟨i, -, hp⟩ | ⟨e, -, hp⟩
  · exact exec_params (hp.symm.trans h)
  · cases hp.symm.trans h
    rfl

theorem hostTurn_params {s t : State} (h : s.hostTurn = .next t) : t.params = s.params := by
  rcases hostTurn_cases (s := s) with ⟨-, ht⟩ | ⟨r, rest, -, ht⟩ | ⟨addr, bytes, rest, -, -, ht⟩ |
    ⟨addr, bytes, rest, -, -, ht⟩ | ⟨rest, -, ht⟩ | ⟨rest, -, ht⟩
  all_goals cases ht.symm.trans h
  all_goals rfl

/-- Settles O23: a step is the host's turn or the performing of a request, and each of them keeps the parameters. -/
theorem parametersNeverChange : Obligations.ParametersNeverChange := by
  intro s t h
  rcases step_cases s with ⟨-, hstep⟩ | ⟨-, r, -, hstep⟩ | ⟨-, -, hstep⟩
  · exact hostTurn_params (hstep.symm.trans h)
  · exact (perform_params (hstep.symm.trans h)).trans s.takeRequest_params
  · exact hostTurn_params (hstep.symm.trans h)

end Sys2Proof.Machine
end

section
/-! What RA.PUSH answers: its two faults, and a push that fits (42_reassembler R221 to R223). -/

namespace Sys2Proof.Machine

variable {s : State} {c : Nat} {k : Half}

theorem exec_raPush_of_fragMax_lt (h : s.params.fragMax < k.toNat) (data : List Byte) :
    exec (.raPush c k data) s = .next (s.raise .errFrag) := if_pos h

theorem exec_raPush_of_accCap_lt (hfrag : k.toNat ≤ s.params.fragMax)
    (hcap : s.params.accCap < (s.getChan c).buf.length + k.toNat) (data : List Byte) :
    exec (.raPush c k data) s = .next (s.raise .errOverflow) :=
  (if_neg hfrag.not_gt).trans (if_pos hcap)

theorem exec_raPush_of_le (hfrag : k.toNat ≤ s.params.fragMax)
    (hcap : (s.getChan c).buf.length + k.toNat ≤ s.params.accCap) (data : List Byte) :
    exec (.raPush c k data) s =
      .next ((s.setChan c (pushFragment s.params.ck c (s.getChan c) (fragment data k)).chan).reply
        (.push (pushFragment s.params.ck c (s.getChan c) (fragment data k)).frames
          (pushFragment s.params.ck c (s.getChan c) (fragment data k)).trace)) :=
  (if_neg hfrag.not_gt).trans (if_neg hcap.not_gt)

/-- RA.PUSH faults, or writes what the push computes to its channel. -/
theorem exec_raPush_next {t : State} {data : List Byte} (h : exec (.raPush c k data) s = .next t) :
    (∃ e, t = s.raise e) ∨
      ∃ p, t = (s.setChan c (pushFragment s.params.ck c (s.getChan c) (fragment data k)).chan).reply p := by
  rcases lt_or_ge s.params.fragMax k.toNat with hfrag | hfrag
  · cases (exec_raPush_of_fragMax_lt hfrag data).symm.trans h
    exact .inl ⟨_, rfl⟩
  · rcases lt_or_ge s.params.accCap ((s.getChan c).buf.length + k.toNat) with hcap | hcap
    · cases (exec_raPush_of_accCap_lt hfrag hcap data).symm.trans h
      exact .inl ⟨_, rfl⟩
    · cases (exec_raPush_of_le hfrag hcap data).symm.trans h
      exact .inr ⟨_, rfl⟩

end Sys2Proof.Machine
end

section
/-! What an operation does to host memory (20_memory R62): writes to addresses of its view, and nothing else. -/

namespace Sys2Proof.Machine

/-- `m'` is `m` after byte writes to addresses that satisfy `P`. -/
inductive Memory.WrittenOn (P : Nat → Prop) (m : Memory) : Memory → Prop
  | refl : Memory.WrittenOn P m m
  | write {m' : Memory} {a : Nat} (v : Byte) : Memory.WrittenOn P m m' → P a → Memory.WrittenOn P m (m'.write a v)

namespace Memory.WrittenOn

variable {P : Nat → Prop} {m m' : Memory}

theorem of_read_ne (h : WrittenOn P m m') {a : Nat} (ha : m'.read a ≠ m.read a) : P a := by
  induction h with
  | refl => exact absurd rfl ha
  | @write m₁ b v _ hb ih =>
    by_cases hab : a = b
    · exact hab ▸ hb
    · exact ih (by rwa [Memory.read_write_ne m₁ v hab] at ha)

theorem wf (h : WrittenOn P m m') (hm : m.wf) : m'.wf := by
  induction h with
  | refl => exact hm
  | write v _ _ ih => exact Memory.write_wf ih _ v

theorem mem_or (h : WrittenOn P m m') {e : Host.Cell} (he : e ∈ m') : e ∈ m ∨ P e.1 := by
  induction h with
  | refl => exact .inl he
  | write v _ ha ih =>
    rcases mem_sparseSet he with rfl | he
    · exact .inr ha
    · exact ih he

theorem of_writeBytes (h : WrittenOn P m m') {a : Nat} {bs : List Byte} (hP : ∀ b, a ≤ b → b < a + bs.length → P b) :
    WrittenOn P m (m'.writeBytes a bs) := by
  induction bs generalizing m' a with
  | nil => exact h
  | cons x bs ih =>
    rw [List.length_cons] at hP
    exact ih (h.write x (hP a (by omega) (by omega))) fun b hb hb' => hP b (by omega) (by omega)

end Memory.WrittenOn

/-- The addresses of the view that the operation `i` may write to, inside host memory (20_memory R61, R62). -/
def mayWrite (i : Instr) (s : State) (a : Nat) : Prop :=
  ∃ base n, mutatedViewOf i = some (base, n) ∧ base ≤ a ∧ a < base + n.toNat ∧ a < 2 ^ s.params.addrW

theorem mayWrite_offset {i : Instr} {s : State} {base k : Nat} {n : Half} (hi : mutatedViewOf i = some (base, n))
    (hlegal : base + n.toNat ≤ 2 ^ s.params.addrW) (hk : k < n.toNat) : mayWrite i s (base + k) :=
  ⟨base, n, hi, by omega, by omega, by omega⟩

/-- If the outcome is a next state, its host memory is that of `s` after writes to addresses that satisfy `P`. -/
def WritesOnly (P : Nat → Prop) (s : State) (o : Out) : Prop :=
  ∀ t, o = .next t → Memory.WrittenOn P s.mem t.mem

namespace WritesOnly

variable {P : Nat → Prop} {s : State}

/-! The endings of an operation. -/

theorem of_mem_eq {t : State} (h : t.mem = s.mem) : WritesOnly P s (.next t) := by
  rintro _ ⟨⟩
  rw [h]
  exact .refl

theorem write_reply {a : Nat} (v : Byte) (p : Payload) (ha : P a) :
    WritesOnly P s (.next ((s.writeByte a v).reply p)) := by
  rintro _ ⟨⟩
  exact .write v .refl ha

theorem write_write_reply {a b : Nat} (u v : Byte) (p : Payload) (ha : P a) (hb : P b) :
    WritesOnly P s (.next (((s.writeByte a u).writeByte b v).reply p)) := by
  rintro _ ⟨⟩
  exact .write v (.write u .refl ha) hb

/-! The checks in front of an operation: a failed check writes nothing. -/

theorem onValue {v : Half} {w : Nat} {body : Out} (hb : WritesOnly P s body) :
    WritesOnly P s (onValue s v w body) := by
  intro t ht
  rcases onValue_next ht with ⟨-, hbody⟩ | ⟨-, rfl⟩
  · exact hb t hbody
  · exact .refl

theorem onLegalView {base : Nat} {n : Half} {body : Out}
    (hb : base + n.toNat ≤ 2 ^ s.params.addrW → WritesOnly P s body) :
    WritesOnly P s (onLegalView s base n body) := by
  intro t ht
  rcases onLegalView_next ht with ⟨hlegal, hbody⟩ | ⟨-, rfl⟩
  · exact hb hlegal t hbody
  · exact .refl

theorem onView {base need : Nat} {n : Half} {body : Out}
    (hb : base + n.toNat ≤ 2 ^ s.params.addrW → need ≤ n.toNat → WritesOnly P s body) :
    WritesOnly P s (onView s base n need body) := by
  intro t ht
  rcases onView_next ht with ⟨hlegal, hn, hbody⟩ | ⟨-, rfl⟩
  · exact hb hlegal hn t hbody
  · exact .refl

theorem onFrame {base : Nat} {n : Half} {body : Nat → Out}
    (hb : ∀ len, base + n.toNat ≤ 2 ^ s.params.addrW → 13 ≤ len → len ≤ n.toNat → WritesOnly P s (body len)) :
    WritesOnly P s (onFrame s base n body) := by
  intro t ht
  rcases onFrame_next ht with ⟨hlegal, -, hmin, hmax, hbody⟩ | ⟨-, rfl⟩
  · exact hb _ hlegal hmin hmax t hbody
  · exact .refl

end WritesOnly

/-- Only FC.WR, FC.FINH and FC.FINP reach a write, and the checks in front of it put its address inside the view. -/
theorem exec_writesOnly (i : Instr) (s : State) : WritesOnly (mayWrite i s) s (exec i s) := by
  cases i with
  | fcRdSof | fcRdLen | fcRdHcrc | fcRdSender | fcRdReceiver | fcRdSeq | fcRdFlags | fcRdIsAck | fcRdNeedAck | fcRdEnc
  | fcRdCmdset | fcRdCmdid => exact .onView fun _ _ => .of_mem_eq rfl
  | fcRdPcrc | fcPayload =>
    simp only [exec, execFcRdPcrc, execFcPayload]
    exact .onFrame fun _ _ _ _ => .of_mem_eq rfl
  | fcValid | scan => exact .onLegalView fun _ => .of_mem_eq rfl
  | fcWrSof | fcWrHcrc | fcWrSender | fcWrReceiver | fcWrFlags | fcWrIsAck | fcWrNeedAck | fcWrEnc | fcWrCmdset
  | fcWrCmdid =>
    exact .onValue (.onView fun hlegal hn => .write_reply _ _ (mayWrite_offset rfl hlegal (by omega)))
  | fcWrLen =>
    exact .onValue (.onView fun hlegal hn => .write_write_reply _ _ _ (mayWrite_offset rfl hlegal (by omega))
      (mayWrite_offset rfl hlegal (by omega)))
  | fcWrSeq =>
    exact .onView fun hlegal hn => .write_write_reply _ _ _ (mayWrite_offset rfl hlegal (by omega))
      (mayWrite_offset rfl hlegal (by omega))
  | fcWrPcrc | fcFinp =>
    simp only [exec, execFcWrPcrc, execFcFinp]
    exact .onFrame fun _ hlegal hmin hmax => .write_write_reply _ _ _ (mayWrite_offset rfl hlegal (by omega))
      (mayWrite_offset rfl hlegal (by omega))
  | fcFinh => exact .onView fun hlegal hn => .write_reply _ _ (mayWrite_offset rfl hlegal (by omega))
  | raPush c k data =>
    intro t ht
    rcases exec_raPush_next ht with ⟨_, rfl⟩ | ⟨_, rfl⟩
    · exact .refl
    · exact .refl
  | raFlush | raStatus | blkReset => exact .of_mem_eq rfl

/-- An operation without a view neither reads nor writes host memory. -/
theorem exec_with_mem {i : Instr} {s t : State} (m : Memory) (hi : viewOf i = none) (h : exec i s = .next t) :
    exec i { s with mem := m } = .next { t with mem := m } := by
  cases i with
  | raPush c k data =>
    rcases lt_or_ge s.params.fragMax k.toNat with hfrag | hfrag
    · cases (exec_raPush_of_fragMax_lt hfrag data).symm.trans h
      exact exec_raPush_of_fragMax_lt (s := { s with mem := m }) hfrag data
    · rcases lt_or_ge s.params.accCap ((s.getChan c).buf.length + k.toNat) with hcap | hcap
      · cases (exec_raPush_of_accCap_lt hfrag hcap data).symm.trans h
        exact exec_raPush_of_accCap_lt (s := { s with mem := m }) hfrag hcap data
      · cases (exec_raPush_of_le hfrag hcap data).symm.trans h
        exact exec_raPush_of_le (s := { s with mem := m }) hfrag hcap data
  | raFlush | raStatus | blkReset =>
    cases h
    rfl
  | _ => cases hi

/-- Settles O20: a byte that differs was written, and every write of an operation is inside its view. -/
theorem onlyMutatorsWriteInsideTheirView : Obligations.OnlyMutatorsWriteInsideTheirView :=
  ⟨fun i s t _ hexec hne => (exec_writesOnly i s t hexec).of_read_ne hne, fun _ _ _ m hi => exec_with_mem m hi⟩

end Sys2Proof.Machine
end

section
/-! When a step stops (60_exceptions R271; log 9): the block never does, and the host only by a store outside its
memory. -/

namespace Sys2Proof.Machine

theorem perform_answers (r : Request) (s : State) : ∃ t, perform r s = .next t := by
  rcases perform_cases r s with ⟨i, -, hp⟩ | ⟨e, -, hp⟩
  · obtain ⟨m, chans, resp, he⟩ := exec_answers i s
    exact ⟨_, hp.trans he⟩
  · exact ⟨_, hp⟩

theorem hostTurn_ne_refused (s : State) (r : Refusal) : s.hostTurn ≠ .refused r := by
  rcases hostTurn_cases (s := s) with ⟨-, ht⟩ | ⟨_, _, -, ht⟩ | ⟨_, _, _, -, -, ht⟩ | ⟨_, _, _, -, -, ht⟩ |
    ⟨_, -, ht⟩ | ⟨_, -, ht⟩
  all_goals simp [ht]

theorem hostTurn_eq_fault_iff {s : State} {e : Fault} :
    s.hostTurn = .fault e ↔ e = .hostStoreOutsideMemory ∧
      ∃ addr bytes rest, s.host = .store addr bytes :: rest ∧ 2 ^ s.params.addrW < addr + bytes.length := by
  constructor
  · intro h
    rcases hostTurn_cases (s := s) with ⟨-, ht⟩ | ⟨_, _, -, ht⟩ | ⟨_, _, _, -, -, ht⟩ | ⟨addr, bytes, rest, hh, hout, -⟩ |
      ⟨_, -, ht⟩ | ⟨_, -, ht⟩
    case inr.inr.inr.inl => exact ⟨by cases e; rfl, addr, bytes, rest, hh, hout⟩
    all_goals simp [ht] at h
  · rintro ⟨rfl, addr, bytes, rest, hh, hout⟩
    simp [State.hostTurn, hh, Nat.not_le.mpr hout]

theorem resetAsserted_of_host_store {s : State} {addr : Nat} {bytes : List Byte} {rest : List HostAct}
    (h : s.host = .store addr bytes :: rest) : s.resetAsserted = false := by
  simp [State.resetAsserted, h]

/-- Settles O57: performing a request answers, the host's turn stops only at a store outside host memory, and at a store
no reset event is asserted. -/
theorem onlyHostErrorsStop : Obligations.OnlyHostErrorsStop := by
  intro s
  rcases step_cases s with ⟨hreset, hstep⟩ | ⟨-, r, hreq, hstep⟩ | ⟨-, hreq, hstep⟩
  · rw [hstep]
    refine ⟨hostTurn_ne_refused s, fun e => ?_⟩
    have hnoStore : ∀ addr bytes rest, s.host ≠ .store addr bytes :: rest := fun _ _ _ hh => by
      simp [resetAsserted_of_host_store hh] at hreset
    simp [hostTurn_eq_fault_iff, hnoStore]
  · obtain ⟨t, ht⟩ := perform_answers r s.takeRequest
    simp [hstep, ht, hreq]
  · rw [hstep]
    refine ⟨hostTurn_ne_refused s, fun e => ?_⟩
    rw [hostTurn_eq_fault_iff]
    exact ⟨fun h => ⟨hreq, h⟩, fun h => h.2⟩

end Sys2Proof.Machine
end

section
/-! What the header of a frame says is read from its first bytes: it moves with them, and bytes behind it do not
matter (30_encoding R92, 41_scanner R182). -/

namespace Sys2Proof.Machine

theorem byteAt_drop (t : List Byte) (k i : Nat) : byteAt (t.drop k) i = byteAt t (k + i) := by
  simp [byteAt]

theorem byteAt_append_left {t : List Byte} {i : Nat} (h : i < t.length) (d : List Byte) :
    byteAt (t ++ d) i = byteAt t i := by
  simp [byteAt, List.getElem?_append_left h]

theorem slice_drop (t : List Byte) (k i j : Nat) : slice (t.drop k) i j = slice t (k + i) (k + j) := by
  simp [slice, Nat.add_sub_add_left]

theorem slice_append_left {t : List Byte} {j : Nat} (h : j ≤ t.length) (i : Nat) (d : List Byte) :
    slice (t ++ d) i j = slice t i j := by
  by_cases hij : i ≤ j
  · rw [slice, slice, List.drop_append_of_le_length (hij.trans h), List.take_append_of_le_length (by simp; omega)]
  · simp [slice, Nat.sub_eq_zero_of_le (Nat.le_of_not_le hij)]

theorem hdrOk_drop (ck : CkChoice) (t : List Byte) (off : Nat) : hdrOk ck (t.drop off) 0 = hdrOk ck t off := by
  simp [hdrOk, slice_drop, byteAt_drop]

theorem hdrOk_append_left (ck : CkChoice) {t : List Byte} {off : Nat} (h : off + 4 ≤ t.length) (d : List Byte) :
    hdrOk ck (t ++ d) off = hdrOk ck t off := by
  simp (disch := omega) only [hdrOk, slice_append_left, byteAt_append_left]

theorem declaredLen_drop (t : List Byte) (off : Nat) : declaredLen (t.drop off) 0 = declaredLen t off := by
  simp [declaredLen, byteAt_drop]

theorem declaredLen_append_left {t : List Byte} {off : Nat} (h : off + 3 ≤ t.length) (d : List Byte) :
    declaredLen (t ++ d) off = declaredLen t off := by
  simp (disch := omega) only [declaredLen, byteAt_append_left]

/-- The length field has `LEN_W` = 10 bits. -/
theorem declaredLen_le (t : List Byte) (off : Nat) : declaredLen t off ≤ 1023 := by
  have hhigh : ∀ b2 : Byte, ((b2 &&& 0x03#8).setWidth 16 <<< 8).toNat < 2 ^ 10 := fun b2 => by
    have : (b2 &&& 0x03#8).toNat ≤ 3 := Nat.and_le_right
    rw [BitVec.toNat_shiftLeft, BitVec.toNat_setWidth, Nat.shiftLeft_eq]
    omega
  have hlow : ∀ b1 : Byte, (b1.setWidth 16).toNat < 2 ^ 10 := fun b1 => by
    simp
    omega
  have hor : declaredLen t off < 2 ^ 10 := by
    rw [declaredLen, lenField, BitVec.toNat_or]
    exact Nat.or_lt_two_pow (hlow _) (hhigh _)
  omega

end Sys2Proof.Machine
end

section
/-! A push leaves its channel in a state of 42_reassembler R237. -/

namespace Sys2Proof.Machine

/-- A channel state that is one of those of 42_reassembler R237. -/
def Chan.Settled (ck : CkChoice) (ch : Chan) : Prop := ∃ ph, ch.inPhase ck ph

theorem Chan.idle_settled (ck : CkChoice) : Chan.idle.Settled ck := ⟨.idle, Chan.idle_inPhase ck⟩

/-- What a scan that asks for more has seen: the first marker, and either less than a header probe behind it or a valid
header that declares more bytes than there are (41_scanner R188). -/
theorem scanCore_eq_needMore {ck : CkChoice} {t : List Byte} {missing consumed : Nat}
    (h : scanCore ck t = .needMore missing consumed) :
    firstMarkerAt t consumed ∧
      ((t.length - consumed < 4 ∧ missing = 4 - (t.length - consumed)) ∨
        (4 ≤ t.length - consumed ∧ hdrOk ck t consumed = true ∧ 13 ≤ declaredLen t consumed ∧
          t.length - consumed < declaredLen t consumed ∧
          missing = declaredLen t consumed - (t.length - consumed))) := by
  rcases scanCore_cases ck t with ⟨-, hs⟩ | ⟨off, hm, ⟨hshort, hs⟩ | ⟨-, -, hs⟩ | ⟨-, -, -, hs⟩ |
    ⟨hprobe, hhdr, hmin, hlong, hs⟩ | ⟨-, -, -, -, hs⟩ | ⟨-, -, -, -, hs⟩⟩
  case inr.inl =>
    cases hs.symm.trans h
    exact ⟨markerIndex_some.mp hm, .inl ⟨hshort, rfl⟩⟩
  case inr.inr.inr.inr.inl =>
    cases hs.symm.trans h
    exact ⟨markerIndex_some.mp hm, .inr ⟨hprobe, hhdr, hmin, hlong, rfl⟩⟩
  all_goals simp [hs] at h

/-- What the loop parks: the buffer from the marker on, with the length at which it is scanned again (R228). -/
theorem settled_of_scanCore_needMore {ck : CkChoice} {t : List Byte} {missing consumed : Nat}
    (h : scanCore ck t = .needMore missing consumed) :
    Chan.Settled ck { buf := t.drop consumed, hint := some (missing + (t.drop consumed).length) } := by
  have hlength : (t.drop consumed).length = t.length - consumed := List.length_drop
  obtain ⟨⟨hlt, hmark, -⟩, ⟨hshort, rfl⟩ | ⟨hprobe, hhdr, hmin, hlong, rfl⟩⟩ := scanCore_eq_needMore h
  · have hhint : 4 - (t.length - consumed) + (t.drop consumed).length = 4 := by omega
    have hpos : 1 ≤ (t.drop consumed).length := by omega
    have hmax : (t.drop consumed).length ≤ 3 := by omega
    exact ⟨.waitHdr, (byteAt_drop t consumed 0).trans hmark, hpos, hmax, congrArg some hhint⟩
  · have hhint : declaredLen t consumed - (t.length - consumed) + (t.drop consumed).length = declaredLen t consumed := by
      omega
    exact ⟨.waitBody (declaredLen t consumed), (byteAt_drop t consumed 0).trans hmark,
      (hdrOk_drop ck t consumed).trans hhdr, declaredLen_drop t consumed, hmin, declaredLen_le t consumed,
      hprobe.trans_eq hlength.symm, hlength.trans_lt hlong, congrArg some hhint⟩

/-- A scan after which the loop goes on takes at least one byte off the buffer (R236). -/
theorem length_drop_lt_of_scanCore {ck : CkChoice} {t : List Byte} {consumed : Nat}
    (h : (∃ len, scanCore ck t = .ok len consumed) ∨ scanCore ck t = .badHcrc consumed ∨
      scanCore ck t = .badPcrc consumed) : (t.drop consumed).length < t.length := by
  rcases scanCore_cases ck t with ⟨-, hs⟩ | ⟨off, hm, hcases⟩
  · simp [hs] at h
  · obtain ⟨hlt, -, -⟩ := markerIndex_some.mp hm
    have hpos : 0 < consumed := by
      rcases hcases with ⟨-, hs⟩ | ⟨-, -, hs⟩ | ⟨-, -, -, hs⟩ | ⟨-, -, -, -, hs⟩ | ⟨-, -, -, -, hs⟩ | ⟨-, hmin, -, -, hs⟩
      all_goals simp [hs] at h
      all_goals omega
    rw [List.length_drop]
    omega

@[simp] theorem PushResult.traced_chan (r : PushResult) (o : Scan) : (r.traced o).chan = r.chan := rfl
@[simp] theorem PushResult.yielding_chan (r : PushResult) (f : Frame) : (r.yielding f).chan = r.chan := rfl

/-- With more fuel than bytes the loop ends at a scan that parks or clears the channel, never for want of fuel. -/
theorem drainLoop_settled (ck : CkChoice) (c : Nat) {fuel : Nat} {buf : List Byte} (h : buf.length < fuel) :
    (drainLoop ck c fuel buf).chan.Settled ck := by
  induction fuel generalizing buf with
  | zero => omega
  | succ fuel ih =>
    have hrest : ∀ {consumed}, (buf.drop consumed).length < buf.length →
        (drainLoop ck c fuel (buf.drop consumed)).chan.Settled ck := fun hlt => ih (by omega)
    rw [drainLoop]
    cases hs : scanCore ck buf with
    | ok len consumed => exact hrest (length_drop_lt_of_scanCore (.inl ⟨len, hs⟩))
    | noSof => exact Chan.idle_settled ck
    | needMore missing consumed => exact settled_of_scanCore_needMore hs
    | badHcrc consumed => exact hrest (length_drop_lt_of_scanCore (.inr (.inl hs)))
    | badPcrc consumed => exact hrest (length_drop_lt_of_scanCore (.inr (.inr hs)))

/-- A channel that waits and is still below its hint waits for the same bytes. -/
theorem Chan.inPhase_append {ck : CkChoice} {ch : Chan} {ph : ChanPhase} {h : Nat} (hph : ch.inPhase ck ph)
    (hhint : ch.hint = some h) {d : List Byte} (hlt : (ch.buf ++ d).length < h) :
    Chan.inPhase ck { buf := ch.buf ++ d, hint := ch.hint } ph := by
  cases ph with
  | idle =>
    obtain ⟨-, hnone⟩ := hph
    simp [hnone] at hhint
  | waitHdr =>
    obtain ⟨hmark, hpos, -, hfour⟩ := hph
    obtain rfl : 4 = h := Option.some.inj (hfour.symm.trans hhint)
    exact ⟨(byteAt_append_left hpos d).trans hmark, by simp; omega, Nat.le_of_lt_succ hlt, hfour⟩
  | waitBody len =>
    obtain ⟨hmark, hhdr, hlen, hmin, hmax, hprobe, -, hbody⟩ := hph
    obtain rfl : len = h := Option.some.inj (hbody.symm.trans hhint)
    exact ⟨(byteAt_append_left (by omega) d).trans hmark, (hdrOk_append_left ck (by omega) d).trans hhdr,
      (declaredLen_append_left (by omega) d).trans hlen, hmin, hmax, by simp; omega, hlt, hbody⟩

theorem pushFragment_settled {ck : CkChoice} {ch : Chan} (h : ch.Settled ck) (c : Nat) (d : List Byte) :
    (pushFragment ck c ch d).chan.Settled ck := by
  rcases pushFragment_cases ck c ch d with ⟨⟨hint, hhint, hlt⟩, hp⟩ | ⟨-, hp⟩
  · obtain ⟨ph, hph⟩ := h
    rw [hp]
    exact ⟨ph, Chan.inPhase_append hph hhint hlt⟩
  · rw [hp]
    exact drainLoop_settled ck c (Nat.lt_succ_self _)

end Sys2Proof.Machine
end

section
/-! The invariant, kept by each thing a step does to the state. -/

namespace Sys2Proof.Machine

theorem decodePlain_eq_ok {cw : CmdWord} {i j : Instr} (h : decodePlain cw j = .ok i) : j = i := by
  unfold decodePlain at h
  split at h
  · cases h
  · split at h
    · cases h
    · exact Except.ok.inj h

theorem chanOf_of_decodeRead {fsel base : Nat} {n : Half} {i : Instr} (h : decodeRead fsel base n = .ok i) :
    chanOf i = none := by
  unfold decodeRead at h
  split at h
  all_goals cases h
  all_goals rfl

theorem chanOf_of_decodeWrite {fsel base : Nat} {v n : Half} {i : Instr} (h : decodeWrite fsel v base n = .ok i) :
    chanOf i = none := by
  unfold decodeWrite at h
  split at h
  all_goals cases h
  all_goals rfl

/-- The channel an operation names is the channel field of its request (30_encoding R98). -/
theorem chanOf_of_decode {r : Request} {i : Instr} {c : Nat} (h : decode r = .ok i) (hc : chanOf i = some c) :
    c = r.chan := by
  unfold decode at h
  split at h
  · cases h
  · split at h
    case h_1 =>
      split at h
      · cases h
      · simp [chanOf_of_decodeRead h] at hc
    case h_2 => simp [chanOf_of_decodeWrite h] at hc
    case h_8 =>
      split at h
      · cases h
      · cases h
        exact (Option.some.inj hc).symm
    case h_12 => cases h
    all_goals
      cases decodePlain_eq_ok h
      cases hc
    all_goals rfl

namespace State.Inv

variable {s t : State}

/-- The invariant does not speak of the response port and the host's script. -/
theorem congr (h : s.Inv) (hparams : t.params = s.params) (hmem : t.mem = s.mem) (hchans : t.chans = s.chans)
    (hreq : t.request = s.request) : t.Inv := by
  obtain ⟨params, mem, chans, request, response, host⟩ := t
  cases hparams
  cases hmem
  cases hchans
  cases hreq
  exact ⟨h.memWf, h.memRange, h.chansWf, h.chansRange, h.phases, h.requestFits⟩

theorem with_mem (h : s.Inv) {P : Nat → Prop} {m : Memory} (hm : Memory.WrittenOn P s.mem m)
    (hP : ∀ a, P a → a < 2 ^ s.params.addrW) : State.Inv { s with mem := m } where
  memWf := hm.wf h.memWf
  memRange e he := (hm.mem_or he).elim (h.memRange e) (hP e.1)
  chansWf := h.chansWf
  chansRange := h.chansRange
  phases := h.phases
  requestFits := h.requestFits

theorem with_request (h : s.Inv) {q : Option Request} (hq : ∀ r, q = some r → r.fits s.params = true) :
    State.Inv { s with request := q } where
  memWf := h.memWf
  memRange := h.memRange
  chansWf := h.chansWf
  chansRange := h.chansRange
  phases := h.phases
  requestFits := hq

theorem setChan (h : s.Inv) {c : Nat} {ch : Chan} (hc : c < 2 ^ s.params.chanIdW) (hch : ch.Settled s.params.ck) :
    (s.setChan c ch).Inv where
  memWf := h.memWf
  memRange := h.memRange
  chansWf := sparseSet_wf h.chansWf c ch
  chansRange e he := by
    rcases mem_sparseSet he with rfl | he
    · exact hc
    · exact h.chansRange e he
  phases d := by
    rw [State.getChan_setChan]
    split
    · exact hch
    · exact h.phases d
  requestFits := h.requestFits

theorem clearChans (h : s.Inv) : s.clearChans.Inv where
  memWf := h.memWf
  memRange := h.memRange
  chansWf := ⟨.nil, nofun⟩
  chansRange := nofun
  phases _ := Chan.idle_settled _
  requestFits := h.requestFits

theorem takeRequest (h : s.Inv) : s.takeRequest.Inv := h.with_request nofun

theorem onResetEvent (h : s.Inv) : s.onResetEvent.Inv := h.clearChans.takeRequest.congr rfl rfl rfl rfl

/-- The codec and the scanner: writes inside host memory, at most. -/
theorem exec_view (h : s.Inv) {i : Instr} {base : Nat} {n : Half} (hi : viewOf i = some (base, n))
    (hexec : exec i s = .next t) : t.Inv := by
  have hwritten := exec_writesOnly i s t hexec
  obtain ⟨m, r, he⟩ := exec_of_viewOf hi s
  cases he.symm.trans hexec
  exact (h.with_mem hwritten fun _ ⟨_, _, _, _, _, hrange⟩ => hrange).congr rfl rfl rfl rfl

/-- The reassembler: the named channel in a state of 42_reassembler R237 again. -/
theorem exec_chan (h : s.Inv) {i : Instr} {c : Nat} (hi : chanOf i = some c) (hc : c < 2 ^ s.params.chanIdW)
    (hexec : exec i s = .next t) : t.Inv := by
  cases i with
  | raPush c k data =>
    cases hi
    rcases exec_raPush_next hexec with ⟨_, rfl⟩ | ⟨_, rfl⟩
    · exact h.congr rfl rfl rfl rfl
    · exact (h.setChan hc (pushFragment_settled (h.phases c) c _)).congr rfl rfl rfl rfl
  | raFlush c =>
    cases hi
    cases hexec
    exact (h.setChan hc (Chan.idle_settled _)).congr rfl rfl rfl rfl
  | raStatus c =>
    cases hexec
    exact h.congr rfl rfl rfl rfl
  | _ => cases hi

theorem exec (h : s.Inv) {i : Instr} (hc : ∀ c, chanOf i = some c → c < 2 ^ s.params.chanIdW)
    (hexec : exec i s = .next t) : t.Inv := by
  rcases viewOf_or_chanOf_or_blkReset i with ⟨base, n, hview⟩ | ⟨c, hchan⟩ | rfl
  · exact h.exec_view hview hexec
  · exact h.exec_chan hchan (hc c hchan) hexec
  · cases hexec
    exact h.clearChans.congr rfl rfl rfl rfl

/-- A request that fits the port names a channel of the block. -/
theorem perform (h : s.Inv) {r : Request} (hr : r.fits s.params = true) (hp : perform r s = .next t) : t.Inv := by
  rcases perform_cases r s with ⟨i, hi, he⟩ | ⟨e, -, he⟩
  · refine h.exec (fun c hc => ?_) (he.symm.trans hp)
    simp only [Request.fits, chanFits, Bool.and_eq_true, decide_eq_true_eq] at hr
    obtain ⟨⟨-, hchan⟩, -⟩ := hr
    rwa [chanOf_of_decode hi hc]
  · cases he.symm.trans hp
    exact h.congr rfl rfl rfl rfl

theorem hostTurn (h : s.Inv) (ht : s.hostTurn = .next t) : t.Inv := by
  rcases hostTurn_cases (s := s) with ⟨-, he⟩ | ⟨r, rest, -, he⟩ | ⟨addr, bytes, rest, -, hfit, he⟩ |
    ⟨addr, bytes, rest, -, -, he⟩ | ⟨rest, -, he⟩ | ⟨rest, -, he⟩
  all_goals cases he.symm.trans ht
  · exact h
  · have hq : ∀ q, some (requestOnPort s.params r) = some q → q.fits s.params = true := by
      rintro _ ⟨⟩
      exact requestOnPort_fits s.params r
    exact (h.with_request hq).congr rfl rfl rfl rfl
  · have hm : Memory.WrittenOn (· < 2 ^ s.params.addrW) s.mem (s.mem.writeBytes addr bytes) :=
      Memory.WrittenOn.refl.of_writeBytes fun b _ hb => lt_of_lt_of_le hb hfit
    exact (h.with_mem hm fun _ => id).congr rfl rfl rfl rfl
  · exact h.congr rfl rfl rfl rfl
  · exact h.onResetEvent.congr rfl rfl rfl rfl

end State.Inv

/-- Settles O48: a step is the host's turn or the performing of a request that fits its port, and each of them keeps the
invariant. -/
theorem stepKeepsInvariant : Obligations.StepKeepsInvariant := by
  intro s t h hstep
  rcases step_cases s with ⟨-, he⟩ | ⟨-, r, hreq, he⟩ | ⟨-, -, he⟩
  · exact h.hostTurn (he.symm.trans hstep)
  · exact h.takeRequest.perform (h.requestFits r hreq) (he.symm.trans hstep)
  · exact h.hostTurn (he.symm.trans hstep)

end Sys2Proof.Machine
end

section
/-! The command word (30_encoding R99): its four fields, and a word put together from them. -/

namespace Sys2Proof

theorem cwOpc_toNat (cw : CmdWord) : (cwOpc cw).toNat = cw.toNat % 256 := by
  simp [cwOpc]

theorem cwFsel_toNat (cw : CmdWord) : (cwFsel cw).toNat = cw.toNat / 256 % 16 := by
  simp [cwFsel, Nat.shiftRight_eq_div_pow]

theorem cwRsv_toNat (cw : CmdWord) : (cwRsv cw).toNat = cw.toNat / 4096 % 16 := by
  simp [cwRsv, Nat.shiftRight_eq_div_pow]

theorem cwImm_toNat (cw : CmdWord) : (cwImm cw).toNat = cw.toNat / 65536 := by
  simp [cwImm, Nat.shiftRight_eq_div_pow]
  omega

@[simp] theorem cwOpc_cwWithImm (v : Half) (low : BitVec 16) : cwOpc (cwWithImm v low) = low.extractLsb' 0 8 :=
  BitVec.extractLsb'_append_eq_of_add_le (by decide)

@[simp] theorem cwFsel_cwWithImm (v : Half) (low : BitVec 16) : cwFsel (cwWithImm v low) = low.extractLsb' 8 4 :=
  BitVec.extractLsb'_append_eq_of_add_le (by decide)

@[simp] theorem cwRsv_cwWithImm (v : Half) (low : BitVec 16) : cwRsv (cwWithImm v low) = low.extractLsb' 12 4 :=
  BitVec.extractLsb'_append_eq_of_add_le (by decide)

@[simp] theorem cwImm_cwWithImm (v : Half) (low : BitVec 16) : cwImm (cwWithImm v low) = v :=
  BitVec.extractLsb'_append_eq_left

/-- The command word with the fields `opc`, `fsel` and `imm16`, and `rsv` 0 (30_encoding R99). -/
def commandWord (opc fsel : Nat) (imm : Half) : CmdWord := cwWithImm imm (BitVec.ofNat 16 (opc + 256 * fsel))

theorem commandWord_toNat (opc fsel : Nat) (imm : Half) :
    (commandWord opc fsel imm).toNat = imm.toNat * 65536 + (opc + 256 * fsel) % 65536 := by
  rw [commandWord, cwWithImm, BitVec.toNat_append, ← Nat.shiftLeft_add_eq_or_of_lt (BitVec.isLt _), Nat.shiftLeft_eq,
    BitVec.toNat_ofNat]

/-- No bit of a command word is outside its four fields. -/
theorem commandWord_of_cwRsv {cw : CmdWord} (h : cwRsv cw = 0) :
    commandWord (cwOpc cw).toNat (cwFsel cw).toNat (cwImm cw) = cw := by
  have hrsv : cw.toNat / 4096 % 16 = 0 := (cwRsv_toNat cw).symm.trans (congrArg BitVec.toNat h)
  apply BitVec.eq_of_toNat_eq
  rw [commandWord_toNat, cwOpc_toNat, cwFsel_toNat, cwImm_toNat]
  omega

/-- An operation that lists no more data than its push takes is decoded from its encoding. -/
theorem decode_encode {i : Instr} (hdata : ∀ c k data, i = .raPush c k data → data.length ≤ k.toNat) :
    decode (encode i) = .ok i := by
  cases i with
  | fcRdSof | fcRdLen | fcRdHcrc | fcRdSender | fcRdReceiver | fcRdSeq | fcRdFlags | fcRdIsAck | fcRdNeedAck | fcRdEnc
  | fcRdCmdset | fcRdCmdid | fcRdPcrc => simp [encode, viewRequest, decode, decodeRead, cwRsv, cwOpc, cwImm, cwFsel]
  | fcWrSof | fcWrLen | fcWrHcrc | fcWrSender | fcWrReceiver | fcWrSeq | fcWrFlags | fcWrIsAck | fcWrNeedAck | fcWrEnc
  | fcWrCmdset | fcWrCmdid | fcWrPcrc => simp [encode, viewRequest, decode, decodeWrite]
  | fcValid | fcFinh | fcFinp | fcPayload | scan =>
    simp [encode, viewRequest, decode, decodePlain, cwRsv, cwOpc, cwImm, cwFsel]
  | raPush c k data =>
    have htake : data.take k.toNat = data := List.take_of_length_le (hdata c k data rfl)
    simp [encode, chanRequest, decode, htake]
  | raFlush | raStatus | blkReset => simp [encode, chanRequest, decode, decodePlain, cwRsv, cwOpc, cwImm, cwFsel]

theorem Instr.data_length_le_of_wf {p : Params} {i : Instr} (h : i.wf p = true) (c : Nat) (k : Half) (data : List Byte)
    (hi : i = .raPush c k data) : data.length ≤ k.toNat := by
  subst hi
  simp only [Instr.wf, dataFits, Bool.and_eq_true, decide_eq_true_eq] at h
  obtain ⟨-, hk, -⟩ := h
  exact hk

/-- Settles O1: a well-formed push lists no more data than it takes, and no operation drops another operand. -/
theorem decodeOfEncodeIsIdentity : Obligations.DecodeOfEncodeIsIdentity :=
  fun _ _ hwf => decode_encode (Instr.data_length_le_of_wf hwf)

end Sys2Proof
end

section
/-! The decoder's answer, said once for every request: refused for a reserved word (30_encoding R106), or the operation
that the request carries (R98 to R101). -/

namespace Sys2Proof.Machine

/-- The request `r` carries the operation `i`: its command word is that of the encoding of `i`, and the operand fields
that `i` uses hold the operands of `i` (30_encoding R98). -/
structure Carries (r : Request) (i : Instr) : Prop where
  cw : (encode i).cw = r.cw
  view : ∀ base n, viewOf i = some (base, n) → base = r.base ∧ n = r.vlen
  chan : ∀ c, chanOf i = some c → c = r.chan
  data : ∀ c k data, i = .raPush c k data → data = r.data.take k.toNat

theorem carries_of_viewOf {r : Request} {i : Instr} (hcw : (encode i).cw = r.cw)
    (hview : viewOf i = some (r.base, r.vlen)) : Carries r i where
  cw := hcw
  view base n h := by
    cases hview.symm.trans h
    exact ⟨rfl, rfl⟩
  chan c h := by
    cases i with
    | raPush | raFlush | raStatus => cases hview
    | _ => cases h
  data c k data h := by
    subst h
    cases hview

/-- The five cases of 30_encoding R106 by the fields of the command word. -/
theorem reservedWord_iff {cw : CmdWord} : reservedWord cw ↔
    (cwOpc cw).toNat ∉ [0x01, 0x02, 0x03, 0x04, 0x05, 0x06, 0x10, 0x20, 0x21, 0x22, 0x30] ∨
    cwRsv cw ≠ 0 ∨
    (((cwOpc cw).toNat = 0x01 ∨ (cwOpc cw).toNat = 0x02) ∧ 13 ≤ (cwFsel cw).toNat) ∨
    ((cwOpc cw).toNat ≠ 0x01 ∧ (cwOpc cw).toNat ≠ 0x02 ∧ cwFsel cw ≠ 0) ∨
    ((cwOpc cw).toNat ≠ 0x02 ∧ (cwOpc cw).toNat ≠ 0x20 ∧ cwImm cw ≠ 0) := by
  have toNat_ne_zero : ∀ {w : Nat} {x : BitVec w}, x ≠ 0 ↔ x.toNat ≠ 0 := by simp [← BitVec.toNat_inj]
  simp only [toNat_ne_zero, cwOpc_toNat, cwFsel_toNat, cwRsv_toNat, cwImm_toNat]

theorem reservedWord_of_cwFsel_ne_zero {cw : CmdWord} (hrd : (cwOpc cw).toNat ≠ 0x01)
    (hwr : (cwOpc cw).toNat ≠ 0x02) (h : cwFsel cw ≠ 0) : reservedWord cw :=
  reservedWord_iff.mpr (.inr (.inr (.inr (.inl ⟨hrd, hwr, h⟩))))

theorem reservedWord_of_cwImm_ne_zero {cw : CmdWord} (hwr : (cwOpc cw).toNat ≠ 0x02)
    (hpush : (cwOpc cw).toNat ≠ 0x20) (h : cwImm cw ≠ 0) : reservedWord cw :=
  reservedWord_iff.mpr (.inr (.inr (.inr (.inr ⟨hwr, hpush, h⟩))))

/-- `o` is what 30_encoding asks of the decoder for `r`: an error for a reserved word, else an operation `r` carries. -/
def DecodesTo (r : Request) (o : Except DecodeError Instr) : Prop :=
  (reservedWord r.cw ∧ ∃ e, o = .error e) ∨ (¬ reservedWord r.cw ∧ ∃ i, o = .ok i ∧ Carries r i)

theorem decodeRead_cases (f : Nat) (base : Nat) (n : Half) :
    (13 ≤ f ∧ decodeRead f base n = .error .reservedFsel) ∨
      (f < 13 ∧ ∃ i, decodeRead f base n = .ok i ∧ (encode i).cw = commandWord 0x01 f 0 ∧
        viewOf i = some (base, n)) := by
  unfold decodeRead
  split
  case h_14 => exact .inl ⟨by grind, rfl⟩
  all_goals exact .inr ⟨by decide, _, rfl, rfl, rfl⟩

theorem decodeWrite_cases (f : Nat) (v : Half) (base : Nat) (n : Half) :
    (13 ≤ f ∧ decodeWrite f v base n = .error .reservedFsel) ∨
      (f < 13 ∧ ∃ i, decodeWrite f v base n = .ok i ∧ (encode i).cw = commandWord 0x02 f v ∧
        viewOf i = some (base, n)) := by
  unfold decodeWrite
  split
  case h_14 => exact .inl ⟨by grind, rfl⟩
  all_goals exact .inr ⟨by decide, _, rfl, rfl, rfl⟩

theorem decodePlain_cases (cw : CmdWord) (i : Instr) :
    ((cwFsel cw ≠ 0 ∨ cwImm cw ≠ 0) ∧ ∃ e, decodePlain cw i = .error e) ∨
      (cwFsel cw = 0 ∧ cwImm cw = 0 ∧ decodePlain cw i = .ok i) := by
  unfold decodePlain
  split
  · next hfsel => exact .inl ⟨.inl hfsel, _, rfl⟩
  · next hfsel =>
    split
    · next himm => exact .inl ⟨.inr himm, _, rfl⟩
    · next himm => exact .inr ⟨not_not.mp hfsel, not_not.mp himm, rfl⟩

/-- An operation that uses neither `fsel` nor `imm16` is refused exactly for a field that is not 0. -/
theorem decodesTo_decodePlain {r : Request} {i : Instr} {opc : Nat} (hrsv : cwRsv r.cw = 0)
    (hopc : (cwOpc r.cw).toNat = opc) (hplain : opc ∈ [0x03, 0x04, 0x05, 0x06, 0x10, 0x21, 0x22, 0x30])
    (hi : commandWord opc 0 0 = r.cw → Carries r i) : DecodesTo r (decodePlain r.cw i) := by
  simp only [List.mem_cons, List.not_mem_nil, or_false] at hplain
  rcases decodePlain_cases r.cw i with ⟨hne, e, he⟩ | ⟨hfsel, himm, hok⟩
  · refine .inl ⟨?_, e, he⟩
    rcases hne with hfsel | himm
    · exact reservedWord_of_cwFsel_ne_zero (by omega) (by omega) hfsel
    · exact reservedWord_of_cwImm_ne_zero (by omega) (by omega) himm
  · have hcw := commandWord_of_cwRsv hrsv
    rw [hopc, hfsel, himm] at hcw
    refine .inr ⟨fun hres => ?_, i, hok, hi hcw⟩
    simp [reservedWord_iff, hrsv, hfsel, himm] at hres
    omega

/-- The decoder's answer, by the branches of the decoder: the field checks of one opcode at a time. -/
theorem decode_decodesTo (r : Request) : DecodesTo r (decode r) := by
  unfold decode
  split
  case isTrue hrsv => exact .inl ⟨reservedWord_iff.mpr (.inr (.inl hrsv)), _, rfl⟩
  case isFalse hrsv =>
    have hrsv := not_not.mp hrsv
    have hcw := commandWord_of_cwRsv hrsv
    split
    case h_1 hopc => -- FC.RD
      split
      case isTrue himm => exact .inl ⟨reservedWord_of_cwImm_ne_zero (by omega) (by omega) himm, _, rfl⟩
      case isFalse himm =>
        have himm := not_not.mp himm
        rw [hopc, himm] at hcw
        rcases decodeRead_cases (cwFsel r.cw).toNat r.base r.vlen with ⟨hf, he⟩ | ⟨hf, i, hi, hword, hview⟩
        · exact .inl ⟨by simp [reservedWord_iff, hopc, hf], _, he⟩
        · exact .inr ⟨by simp [reservedWord_iff, hopc, himm, hrsv, hf], i, hi,
            carries_of_viewOf (hword.trans hcw) hview⟩
    case h_2 hopc => -- FC.WR
      rw [hopc] at hcw
      rcases decodeWrite_cases (cwFsel r.cw).toNat (cwImm r.cw) r.base r.vlen with
        ⟨hf, he⟩ | ⟨hf, i, hi, hword, hview⟩
      · exact .inl ⟨by simp [reservedWord_iff, hopc, hf], _, he⟩
      · exact .inr ⟨by simp [reservedWord_iff, hopc, hrsv, hf], i, hi, carries_of_viewOf (hword.trans hcw) hview⟩
    case h_8 hopc => -- RA.PUSH
      split
      case isTrue hfsel => exact .inl ⟨reservedWord_of_cwFsel_ne_zero (by omega) (by omega) hfsel, _, rfl⟩
      case isFalse hfsel =>
        have hfsel := not_not.mp hfsel
        rw [hopc, hfsel] at hcw
        refine .inr ⟨by simp [reservedWord_iff, hopc, hfsel, hrsv], _, rfl, hcw, nofun, ?_, ?_⟩
        · rintro _ ⟨⟩
          rfl
        · rintro _ _ _ ⟨⟩
          rfl
    case h_9 hopc | h_10 hopc => -- RA.FLUSH, RA.STATUS
      refine decodesTo_decodePlain hrsv hopc (by decide) fun hword => ⟨hword, nofun, ?_, nofun⟩
      rintro _ ⟨⟩
      rfl
    case h_11 hopc => -- BLK.RESET
      exact decodesTo_decodePlain hrsv hopc (by decide) fun hword => ⟨hword, nofun, nofun, nofun⟩
    case h_12 => -- no opcode of the table
      refine .inl ⟨reservedWord_iff.mpr (.inl ?_), _, rfl⟩
      simp only [List.mem_cons, List.not_mem_nil, or_false]
      grind
    all_goals -- FC.VALID, FC.FINH, FC.FINP, FC.PAYLOAD, SCAN
      rename_i hopc
      exact decodesTo_decodePlain hrsv hopc (by decide) fun hword => carries_of_viewOf hword rfl

/-- Settles O2: the decoded operation is carried by the request, and a push among them lists at most its `k` bytes. -/
theorem decodedRequestEncodesBack : Obligations.DecodedRequestEncodesBack := by
  intro r i hdecode
  rcases decode_decodesTo r with ⟨-, e, he⟩ | ⟨-, j, hj, hcarries⟩
  · cases he.symm.trans hdecode
  · cases hj.symm.trans hdecode
    obtain ⟨hcw, hview, hchan, hdata⟩ := hcarries
    refine ⟨hcw, decode_encode fun c k data hi => ?_, hview, hchan, hdata⟩
    rw [hdata c k data hi]
    exact List.length_take_le _ _

/-- Settles O3: a reserved word does not decode, so performing it raises ERR_OP; every other word decodes. -/
theorem reservedWordsAnswerErrOp : Obligations.ReservedWordsAnswerErrOp := by
  intro s r hnext
  rcases decode_decodesTo r with ⟨hres, e, he⟩ | ⟨hres, i, hi, -⟩
  · refine ⟨fun _ => ?_, fun hnot => absurd hres hnot⟩
    calc step s = perform r s.takeRequest := step_of_performsNext hnext
      _ = .next (s.takeRequest.raise .errOp) := perform_of_decode_error he _
  · exact ⟨fun h => absurd h hres, fun _ => ⟨i, hi⟩⟩

/-- Settles O4: each word decodes by evaluation of the decoder. -/
theorem specWordsDecode : Obligations.SpecWordsDecode := by
  refine ⟨?_, ?_, ?_, ?_, ?_, ?_, ?_⟩
  all_goals decide

end Sys2Proof.Machine
end

section
/-! The widths of the response record (30_encoding R102 to R105): scan records, pushes, and every other answer. -/

namespace Sys2Proof.Machine

theorem consumedField_lt (n : Nat) : consumedField n < 2 ^ 16 := by
  unfold consumedField
  split
  · assumption
  · exact BitVec.isLt _

/-- What bounds the numbers of a scan's answer: `missing` and the frame's length are at most a declared length, and a
frame lies inside the bytes scanned. -/
def Scan.Bounded (n : Nat) : Scan → Prop
  | .ok frameLen consumed => frameLen ≤ 1023 ∧ 0 < frameLen ∧ frameLen ≤ consumed ∧ consumed ≤ n
  | .needMore missing _ => missing ≤ 1023
  | .noSof | .badHcrc _ | .badPcrc _ => True

theorem scanCore_bounded (ck : CkChoice) (t : List Byte) : (scanCore ck t).Bounded t.length := by
  rcases scanCore_cases ck t with ⟨-, hs⟩ | ⟨off, hm, ⟨hshort, hs⟩ | ⟨-, -, hs⟩ | ⟨-, -, -, hs⟩ |
    ⟨-, -, hmin, hlong, hs⟩ | ⟨-, -, -, -, hs⟩ | ⟨-, hmin, hfits, -, hs⟩⟩
  all_goals rw [hs]
  case inr.inl =>
    show 4 - (t.length - off) ≤ 1023
    omega
  case inr.inr.inr.inr.inl =>
    have := declaredLen_le t off
    show declaredLen t off - (t.length - off) ≤ 1023
    omega
  case inr.inr.inr.inr.inr.inr =>
    obtain ⟨hoff, -, -⟩ := markerIndex_some.mp hm
    exact ⟨declaredLen_le t off, by omega, by omega, by omega⟩
  all_goals trivial

theorem ScanRecord.fits_iff {r : ScanRecord} :
    r.fits = true ↔ r.missing < 2 ^ 10 ∧ r.consumed < 2 ^ 16 ∧ r.frameLen < 2 ^ 10 := by
  simp only [ScanRecord.fits, Bool.and_eq_true, decide_eq_true_eq, and_assoc]

theorem Scan.record_fits {o : Scan} {n : Nat} (h : o.Bounded n) : o.record.fits = true := by
  have zero_lt : 0 < 2 ^ 10 := by decide
  rw [ScanRecord.fits_iff]
  cases o with
  | ok frameLen consumed =>
    obtain ⟨hlen, -⟩ := h
    exact ⟨zero_lt, consumedField_lt consumed, Nat.lt_succ_of_le hlen⟩
  | needMore missing consumed => exact ⟨Nat.lt_succ_of_le h, consumedField_lt consumed, zero_lt⟩
  | noSof => exact ⟨zero_lt, Nat.two_pow_pos 16, zero_lt⟩
  | badHcrc consumed | badPcrc consumed => exact ⟨zero_lt, consumedField_lt consumed, zero_lt⟩

/-- The frame found in a view begins inside the view, and so inside host memory. -/
theorem Scan.frameAddr_lt {o : Scan} {n base w : Nat} (h : o.Bounded n) (hlegal : base + n ≤ 2 ^ w) :
    o.frameAddr base < 2 ^ w := by
  cases o with
  | ok frameLen consumed =>
    obtain ⟨-, hpos, hle, hn⟩ := h
    show base + (consumed - frameLen) < 2 ^ w
    omega
  | _ => exact Nat.two_pow_pos w

/-- A frame of channel `c` that is as long as it says. -/
def Frame.Whole (c : Nat) (f : Frame) : Prop := f.chan = c ∧ f.len = f.bytes.length

/-- Frames of channel `c`, and scan records that fit. -/
def PushResult.Fits (c : Nat) (r : PushResult) : Prop :=
  (∀ f ∈ r.frames, f.Whole c) ∧ ∀ o ∈ r.trace, o.fits = true

namespace PushResult.Fits

variable {c : Nat} {r : PushResult}

theorem nil (ch : Chan) : PushResult.Fits c { chan := ch, frames := [], trace := [] } := ⟨nofun, nofun⟩

theorem single (ch : Chan) {o : ScanRecord} (ho : o.fits = true) :
    PushResult.Fits c { chan := ch, frames := [], trace := [o] } := ⟨nofun, by simpa using ho⟩

theorem traced (h : r.Fits c) {o : Scan} (ho : o.record.fits = true) : (r.traced o).Fits c := by
  obtain ⟨hframes, htrace⟩ := h
  exact ⟨hframes, List.forall_mem_cons.mpr ⟨ho, htrace⟩⟩

theorem yielding (h : r.Fits c) {f : Frame} (hf : f.Whole c) : (r.yielding f).Fits c := by
  obtain ⟨hframes, htrace⟩ := h
  exact ⟨List.forall_mem_cons.mpr ⟨hf, hframes⟩, htrace⟩

end PushResult.Fits

theorem drainLoop_fits (ck : CkChoice) (c fuel : Nat) (buf : List Byte) : (drainLoop ck c fuel buf).Fits c := by
  induction fuel generalizing buf with
  | zero => exact .nil _
  | succ fuel ih =>
    have hbound := scanCore_bounded ck buf
    have hrec := Scan.record_fits hbound
    rw [drainLoop]
    cases hs : scanCore ck buf with
    | ok len consumed =>
      rw [hs] at hbound hrec
      obtain ⟨-, -, hle, hn⟩ := hbound
      have hwhole : Frame.Whole c { chan := c, len := len, bytes := slice buf (consumed - len) consumed } := by
        refine ⟨rfl, ?_⟩
        simp only [slice, List.length_take, List.length_drop]
        omega
      exact ((ih _).yielding hwhole).traced hrec
    | noSof | needMore missing consumed => exact .single _ (hs ▸ hrec)
    | badHcrc consumed | badPcrc consumed => exact (ih _).traced (hs ▸ hrec)

theorem pushFragment_fits (ck : CkChoice) (c : Nat) (ch : Chan) (d : List Byte) : (pushFragment ck c ch d).Fits c := by
  rcases pushFragment_cases ck c ch d with ⟨-, hp⟩ | ⟨-, hp⟩
  · rw [hp]
    exact .nil _
  · rw [hp]
    exact drainLoop_fits ck c _ _

theorem payload_push_fits {p : Params} {c : Nat} {r : PushResult} (h : r.Fits c) (hc : c < 2 ^ p.chanIdW) :
    (Payload.push r.frames r.trace).fits p = true := by
  obtain ⟨hframes, htrace⟩ := h
  simp only [Payload.fits, Bool.and_eq_true, List.all_eq_true, decide_eq_true_eq]
  refine ⟨fun f hf => ?_, htrace⟩
  obtain ⟨hchan, hlen⟩ := hframes f hf
  exact ⟨hchan ▸ hc, hlen⟩

/-- A channel in a state of 42_reassembler R237 holds less than a frame and waits for at most MAX_LEN bytes. -/
theorem Chan.Settled.bounds {ck : CkChoice} {ch : Chan} (h : ch.Settled ck) :
    ch.buf.length ≤ 1022 ∧ hintField ch.hint ≤ 1023 := by
  obtain ⟨ph, hph⟩ := h
  cases ph with
  | idle =>
    obtain ⟨hbuf, hhint⟩ := hph
    simp [hbuf, hhint, hintField]
  | waitHdr =>
    obtain ⟨-, -, hmax, hhint⟩ := hph
    rw [hhint]
    exact ⟨by omega, by decide⟩
  | waitBody len =>
    obtain ⟨-, -, -, -, hmax, -, hlt, hhint⟩ := hph
    rw [hhint]
    exact ⟨by omega, hmax⟩

theorem payload_status_fits {p : Params} (hp : p.legal) {ch : Chan} (hch : ch.Settled p.ck) :
    (Payload.status ch.buf.length ch.hint.isSome (hintField ch.hint)).fits p = true := by
  obtain ⟨-, -, -, hcap⟩ := hp
  obtain ⟨hbuf, hhint⟩ := hch.bounds
  have hwidth : p.accCap + 1 ≤ 2 ^ Nat.clog 2 (p.accCap + 1) := Nat.le_pow_clog (by decide) _
  simp only [maxLen] at hcap
  simp only [Payload.fits, Bool.and_eq_true, decide_eq_true_eq]
  omega

theorem payload_span_fits {p : Params} {addr len : Nat} (haddr : addr < 2 ^ p.addrW) (hlen : len < 2 ^ 10) :
    (Payload.span addr len).fits p = true := by
  simp only [Payload.fits, Bool.and_eq_true, decide_eq_true_eq]
  exact ⟨haddr, hlen⟩

theorem payload_scan_fits {p : Params} {o : Scan} {base n : Nat} (h : o.Bounded n) (hlegal : base + n ≤ 2 ^ p.addrW) :
    (Payload.scan o.record (o.frameAddr base)).fits p = true := by
  simp only [Payload.fits, Bool.and_eq_true, decide_eq_true_eq]
  exact ⟨Scan.record_fits h, Scan.frameAddr_lt h hlegal⟩

theorem State.viewLen_le (s : State) (base : Nat) : s.viewLen base ≤ 1023 :=
  declaredLen_le [0, s.viewByte base 1, s.viewByte base 2] 0

/-- If the outcome is a next state with a response, the response fits the record. -/
def AnswerFits (o : Out) : Prop := ∀ t r, o = .next t → t.response = some r → r.payload.fits t.params = true

namespace AnswerFits

variable {s : State}

theorem of_raise (s : State) (e : Status) : AnswerFits (.next (s.raise e)) := by
  rintro _ _ ⟨⟩ ⟨⟩
  rfl

theorem of_response {t : State} {e : Status} {p : Payload} (ht : t.response = some { status := e, payload := p })
    (hp : p.fits t.params = true) : AnswerFits (.next t) := by
  rintro _ r ⟨⟩ hr
  cases ht.symm.trans hr
  exact hp

theorem onValue {v : Half} {w : Nat} {body : Out} (hb : AnswerFits body) : AnswerFits (onValue s v w body) := by
  intro t r ht hr
  rcases onValue_next ht with ⟨-, hbody⟩ | ⟨-, rfl⟩
  · exact hb t r hbody hr
  · exact of_raise s _ _ r rfl hr

theorem onLegalView {base : Nat} {n : Half} {body : Out}
    (hb : base + n.toNat ≤ 2 ^ s.params.addrW → AnswerFits body) : AnswerFits (onLegalView s base n body) := by
  intro t r ht hr
  rcases onLegalView_next ht with ⟨hlegal, hbody⟩ | ⟨-, rfl⟩
  · exact hb hlegal t r hbody hr
  · exact of_raise s _ _ r rfl hr

theorem onView {base need : Nat} {n : Half} {body : Out} (hb : AnswerFits body) :
    AnswerFits (onView s base n need body) := by
  intro t r ht hr
  rcases onView_next ht with ⟨-, -, hbody⟩ | ⟨-, rfl⟩
  · exact hb t r hbody hr
  · exact of_raise s _ _ r rfl hr

theorem onFrame {base : Nat} {n : Half} {body : Nat → Out}
    (hb : ∀ len, base + n.toNat ≤ 2 ^ s.params.addrW → 13 ≤ len → len ≤ n.toNat → len ≤ 1023 →
      AnswerFits (body len)) : AnswerFits (onFrame s base n body) := by
  intro t r ht hr
  rcases onFrame_next ht with ⟨hlegal, -, hmin, hmax, hbody⟩ | ⟨-, rfl⟩
  · exact hb _ hlegal hmin hmax (s.viewLen_le base) t r hbody hr
  · exact of_raise s _ _ r rfl hr

end AnswerFits

/-- A number in an answer is a field's value, a length inside a view, or a measure of a channel; the view and the
invariant bound them. -/
theorem exec_answerFits {i : Instr} {s : State} (hinv : s.Inv) (hlegal : s.params.legal) (hwf : i.wf s.params = true) :
    AnswerFits (exec i s) := by
  cases i with
  | fcRdSof | fcRdLen | fcRdHcrc | fcRdSender | fcRdReceiver | fcRdSeq | fcRdFlags | fcRdIsAck | fcRdNeedAck | fcRdEnc
  | fcRdCmdset | fcRdCmdid | fcWrSeq | fcFinh => exact .onView (.of_response rfl rfl)
  | fcWrSof | fcWrLen | fcWrHcrc | fcWrSender | fcWrReceiver | fcWrFlags | fcWrIsAck | fcWrNeedAck | fcWrEnc
  | fcWrCmdset | fcWrCmdid => exact .onValue (.onView (.of_response rfl rfl))
  | fcRdPcrc | fcWrPcrc | fcFinp =>
    simp only [exec, execFcRdPcrc, execFcWrPcrc, execFcFinp]
    exact .onFrame fun _ _ _ _ _ => .of_response rfl rfl
  | fcValid => exact .onLegalView fun _ => .of_response rfl rfl
  | fcPayload base n =>
    simp only [exec, execFcPayload]
    refine .onFrame fun len hview hmin hn hmax => .of_response rfl ?_
    have haddr : base + hdrLen < 2 ^ s.params.addrW := by
      rw [hdrLen]
      omega
    exact payload_span_fits haddr (by omega)
  | scan base n =>
    refine .onLegalView fun hview => .of_response rfl ?_
    have hbound := scanCore_bounded s.params.ck (s.viewBytes base 0 n.toNat)
    rw [State.viewBytes_length] at hbound
    exact payload_scan_fits hbound hview
  | raPush c k data =>
    simp only [Instr.wf, chanFits, Bool.and_eq_true, decide_eq_true_eq] at hwf
    obtain ⟨hc, -⟩ := hwf
    rcases lt_or_ge s.params.fragMax k.toNat with hfrag | hfrag
    · rw [exec_raPush_of_fragMax_lt hfrag]
      exact .of_raise s _
    · rcases lt_or_ge s.params.accCap ((s.getChan c).buf.length + k.toNat) with hcap | hcap
      · rw [exec_raPush_of_accCap_lt hfrag hcap]
        exact .of_raise s _
      · rw [exec_raPush_of_le hfrag hcap]
        exact .of_response rfl (payload_push_fits (pushFragment_fits _ c _ _) hc)
  | raFlush => exact .of_response rfl rfl
  | raStatus c => exact .of_response rfl (payload_status_fits hlegal (hinv.phases c))
  | blkReset => exact .of_response rfl rfl

/-- Settles O55: what each operation answers fits, for a push by the bounds of its scans and for RA.STATUS by the
invariant. -/
theorem responsesFitTheirRecord : Obligations.ResponsesFitTheirRecord :=
  fun _ _ t r hinv hlegal hwf hexec => exec_answerFits hinv hlegal hwf t r hexec

end Sys2Proof.Machine
end

section
/-! RA.FEED (30_encoding R109): its chunks, the results of its pushes, and the host script that issues them. -/

namespace Sys2Proof.Machine

theorem flatten_chunks {size fuel : Nat} {bytes : List Byte} (hsize : 1 ≤ size) (hfuel : bytes.length ≤ fuel) :
    (chunks size fuel bytes).flatten = bytes := by
  induction fuel generalizing bytes with
  | zero => simp [List.length_eq_zero_iff.mp (Nat.le_zero.mp hfuel), chunks]
  | succ fuel ih =>
    cases bytes with
    | nil => rfl
    | cons b bs =>
      have hrest : ((b :: bs).drop size).length ≤ fuel := by
        rw [List.length_drop]
        omega
      rw [chunks, List.flatten_cons, ih hrest, List.take_append_drop]

theorem length_le_of_mem_chunks {size fuel : Nat} {bytes d : List Byte} (hd : d ∈ chunks size fuel bytes) :
    d.length ≤ size := by
  induction fuel generalizing bytes with
  | zero => cases hd
  | succ fuel ih =>
    cases bytes with
    | nil => cases hd
    | cons b bs =>
      rcases List.mem_cons.mp hd with rfl | hd
      · exact List.length_take_le _ _
      · exact ih hd

theorem isFeedOf_feedChunks {p : Params} (hp : 1 ≤ p.fragMax) (size : Nat) (bytes : List Byte) :
    isFeedOf p bytes (feedChunks p size bytes) := by
  refine ⟨flatten_chunks (le_max_left _ _) le_rfl, fun d hd => ?_⟩
  have := length_le_of_mem_chunks hd
  omega

/-- A first push and the rest: their frames and traces are joined. -/
theorem runPushes_cons {c : Nat} {d : List Byte} {ds : List (List Byte)} {s : State} {r : FeedResult} :
    runPushes c (d :: ds) s = some r ↔
      ∃ (t : State) (frames : List Frame) (trace : List ScanRecord) (r' : FeedResult),
        exec (pushOf c d) s = .next t ∧
        t.response = some { status := .ok, payload := .push frames trace } ∧ runPushes c ds t = some r' ∧
        r = { state := r'.state, frames := frames ++ r'.frames, trace := trace ++ r'.trace } := by
  constructor
  · intro h
    rw [runPushes] at h
    split at h
    case h_1 t hexec =>
      split at h
      case h_1 frames trace hresp =>
        obtain ⟨r', hr', rfl⟩ := Option.map_eq_some_iff.mp h
        exact ⟨t, frames, trace, r', hexec, hresp, hr', rfl⟩
      case h_2 => cases h
    all_goals cases h
  · rintro ⟨t, frames, trace, r', hexec, hresp, hr', rfl⟩
    simp [runPushes, hexec, hresp, hr']

theorem State.with_host_self {s : State} {acts : List HostAct} (h : s.host = acts) : { s with host := acts } = s := by
  rw [← h]

/-- A push does not look at the host's script. -/
theorem exec_raPush_with_host {s t : State} {c : Nat} {k : Half} {data : List Byte}
    (h : exec (.raPush c k data) s = .next t) (acts : List HostAct) :
    exec (.raPush c k data) { s with host := acts } = .next { t with host := acts } := by
  rcases lt_or_ge s.params.fragMax k.toNat with hfrag | hfrag
  · cases (exec_raPush_of_fragMax_lt hfrag data).symm.trans h
    exact exec_raPush_of_fragMax_lt (s := { s with host := acts }) hfrag data
  · rcases lt_or_ge s.params.accCap ((s.getChan c).buf.length + k.toNat) with hcap | hcap
    · cases (exec_raPush_of_accCap_lt hfrag hcap data).symm.trans h
      exact exec_raPush_of_accCap_lt (s := { s with host := acts }) hfrag hcap data
    · cases (exec_raPush_of_le hfrag hcap data).symm.trans h
      exact exec_raPush_of_le (s := { s with host := acts }) hfrag hcap data

theorem encode_pushOf_fits {p : Params} {c : Nat} {d : List Byte} (hc : c < 2 ^ p.chanIdW)
    (hd : d.length ≤ p.fragMax) : (encode (pushOf c d)).fits p = true := by
  simp [Request.fits, encode, pushOf, chanRequest, addrFits, chanFits, hc, hd]

theorem decode_encode_pushOf {c : Nat} {d : List Byte} (hd : d.length < 2 ^ 16) :
    decode (encode (pushOf c d)) = .ok (pushOf c d) := by
  refine decode_encode fun _ _ _ h => ?_
  cases h
  rw [BitVec.toNat_ofNat, Nat.mod_eq_of_lt hd]

/-- The host issues a request that fits the port, and the block performs it in the next step, unless the script goes on
with the reset event. -/
theorem runSteps_issue {s : State} {q : Request} {i : Instr} {rest : List HostAct} (hreq : s.request = none)
    (hhost : s.host = .issue q :: rest) (hfits : q.fits s.params = true) (hdecode : decode q = .ok i)
    (hreset : State.resetAsserted { s with host := rest } = false) {t : State}
    (hexec : exec i { s with host := rest } = .next t) (n : Nat) : runSteps (n + 2) s = runSteps n t := by
  have hissue : step s = .next { s with request := some q, host := rest } := by
    rw [step_of_request_none hreq, hostTurn_issue hhost, requestOnPort_of_fits hfits]
  have hperform : step { s with request := some q, host := rest } = .next t := by
    have hport : State.takeRequest { s with request := some q, host := rest } = { s with host := rest } := by
      simp only [State.takeRequest, ← hreq]
    have hnext : State.performsNext { s with request := some q, host := rest } q := ⟨rfl, hreset⟩
    rw [step_of_performsNext hnext, perform_of_decode_ok hdecode, hport, hexec]
  simp only [runSteps, hissue, hperform]

theorem resetAsserted_feedActs {s : State} {c : Nat} {ds : List (List Byte)} :
    State.resetAsserted { s with host := feedActs c ds } = false := by
  cases ds <;> rfl

/-- The script of the pushes, two steps for each of them: the run follows the pushes, with the rest of the script beside
it. -/
theorem runSteps_feedActs {c : Nat} {ds : List (List Byte)} {s : State} {r : FeedResult} (hlegal : s.params.legal)
    (hc : c < 2 ^ s.params.chanIdW) (hreq : s.request = none) (hhost : s.host = feedActs c ds)
    (hds : ∀ d ∈ ds, d.length ≤ s.params.fragMax) (hrun : runPushes c ds { s with host := [] } = some r) :
    runSteps (2 * ds.length) s = .next r.state := by
  induction ds generalizing s r with
  | nil =>
    cases hrun
    exact congrArg Host.Outcome.next (State.with_host_self hhost).symm
  | cons d ds ih =>
    obtain ⟨t, frames, trace, r', hexec, -, hr', rfl⟩ := runPushes_cons.mp hrun
    obtain ⟨hd, hds⟩ := List.forall_mem_cons.mp hds
    have ⟨_, _, hfrag, _⟩ := hlegal
    obtain ⟨u, _, hu, -, htreq, htparams, hthost⟩ := everyOperationAnswersOnce (pushOf c d) { s with host := [] }
    cases hu.symm.trans hexec
    have hpush := exec_raPush_with_host hexec (feedActs c ds)
    calc runSteps (2 * ds.length + 2) s
        = runSteps (2 * ds.length) { t with host := feedActs c ds } :=
          runSteps_issue hreq hhost (encode_pushOf_fits hc hd) (decode_encode_pushOf (by omega)) resetAsserted_feedActs
            hpush _
      _ = .next r'.state := by
          exact ih (htparams ▸ hlegal) (htparams ▸ hc) (htreq.trans hreq) rfl (htparams ▸ hds)
            ((congrArg _ (State.with_host_self hthost)).trans hr')

/-- Settles O60: the chunks by recursion on the bytes, a push in front of others by what the first one answers, and the
script by induction on its pushes. -/
theorem feedIsItsPushes : Obligations.FeedIsItsPushes :=
  ⟨fun _ size bytes hp => isFeedOf_feedChunks hp size bytes, fun _ _ _ _ _ => runPushes_cons,
    fun _ _ _ _ => runSteps_feedActs⟩

end Sys2Proof.Machine
end

section
/-! The multi-byte fields and the flag byte as numbers (30_encoding R92 to R95; 40_codec R138 to R140, R145, R149,
R151 to R153). -/

namespace Sys2Proof.Machine

/-! A bit pattern put together from parts that do not overlap is their sum. -/

theorem toNat_or_of_mul {w m h k : Nat} {hi lo : BitVec w} (hhi : hi.toNat = m * h) (hlo : lo.toNat < m)
    (hm : m = 2 ^ k) : (hi ||| lo).toNat = m * h + lo.toNat := by
  subst hm
  rw [BitVec.toNat_or, hhi, Nat.two_pow_add_eq_or_of_lt hlo]

theorem toNat_and_mask {w k : Nat} (b : BitVec w) {mask : BitVec w} (m : Nat) (hm : m = 2 ^ k)
    (hmask : mask.toNat = 2 ^ k - 1) : (b &&& mask).toNat = b.toNat % m := by
  rw [BitVec.toNat_and, hmask, hm, Nat.and_two_pow_sub_one_eq_mod]

theorem toNat_zext_byte (b : Byte) : (b.setWidth 16).toNat = b.toNat :=
  BitVec.toNat_setWidth_of_le (by decide)

theorem toNat_bit_zero (v : Half) : (v.extractLsb' 0 1).toNat = v.toNat % 2 := by
  simp

/-! Little-endian numbers. -/

theorem toNat_loByte (v : Half) : (loByte v).toNat = v.toNat % 256 := by
  simp [loByte]

theorem toNat_hiByte (v : Half) : (hiByte v).toNat = v.toNat / 256 := by
  rw [hiByte, BitVec.extractLsb'_toNat, Nat.shiftRight_eq_div_pow]
  omega

theorem toNat_le16 (lo hi : Byte) : (le16 lo hi).toNat = lo.toNat + 256 * hi.toNat := by
  have hhi : (hi.setWidth 16 <<< 8).toNat = 256 * hi.toNat := by
    rw [BitVec.toNat_shiftLeft, toNat_zext_byte, Nat.shiftLeft_eq]
    omega
  have hlo : (lo.setWidth 16).toNat < 256 := (toNat_zext_byte lo).trans_lt lo.isLt
  rw [le16, BitVec.or_comm, toNat_or_of_mul (k := 8) hhi hlo rfl, toNat_zext_byte, Nat.add_comm]

theorem toNat_lenField (b1 b2 : Byte) : (lenField b1 b2).toNat = b1.toNat + 256 * (b2.toNat % 4) := by
  rw [← toNat_and_mask (mask := 0x03#8) (k := 2) b2 4 rfl rfl]
  exact toNat_le16 b1 (b2 &&& 0x03#8)

theorem toNat_lenByte2 (old : Byte) (v : Half) :
    (lenByte2 old v).toNat = 4 * (old.toNat / 4) + v.toNat / 256 % 4 := by
  have hkept : (old &&& 0xFC#8).toNat = 4 * (old.toNat / 4) := by
    revert old
    decide
  have hnew : ((v.extractLsb' 8 2).setWidth 8).toNat = v.toNat / 256 % 4 := by
    rw [BitVec.toNat_setWidth_of_le (by decide), BitVec.extractLsb'_toNat, Nat.shiftRight_eq_div_pow]
  rw [lenByte2, toNat_or_of_mul (k := 2) hkept (by omega) rfl, hnew]

/-! The flag byte. -/

theorem toNat_flagIsAck (b : Byte) : (flagIsAck b).toNat = b.toNat / 128 := by
  revert b
  decide

theorem toNat_flagNeedAck (b : Byte) : (flagNeedAck b).toNat = b.toNat / 32 % 2 := by
  revert b
  decide

theorem toNat_flagEnc (b : Byte) : (flagEnc b).toNat = b.toNat % 8 :=
  (toNat_zext_byte (b &&& 0x07#8)).trans (toNat_and_mask (k := 3) b 8 rfl rfl)

theorem toNat_setFlagIsAck (old : Byte) (v : Half) :
    (setFlagIsAck old v).toNat = 128 * (v.toNat % 2) + old.toNat % 128 := by
  have hset : ∀ (b : Byte) (bit : BitVec 1),
      ((b &&& 0x7F#8) ||| (bit.setWidth 8 <<< 7)).toNat = 128 * bit.toNat + b.toNat % 128 := by decide
  rw [setFlagIsAck, hset, toNat_bit_zero]

theorem toNat_setFlagNeedAck (old : Byte) (v : Half) :
    (setFlagNeedAck old v).toNat = 64 * (old.toNat / 64) + 32 * (v.toNat % 2) + old.toNat % 32 := by
  have hset : ∀ (b : Byte) (bit : BitVec 1),
      ((b &&& 0xDF#8) ||| (bit.setWidth 8 <<< 5)).toNat = 64 * (b.toNat / 64) + 32 * bit.toNat + b.toNat % 32 := by
    decide
  rw [setFlagNeedAck, hset, toNat_bit_zero]

theorem toNat_setFlagEnc (old : Byte) (v : Half) :
    (setFlagEnc old v).toNat = 8 * (old.toNat / 8) + v.toNat % 8 := by
  have hkept : (old &&& 0xF8#8).toNat = 8 * (old.toNat / 8) := by
    revert old
    decide
  have hnew : ((v.extractLsb' 0 3).setWidth 8).toNat = v.toNat % 8 := by
    rw [BitVec.toNat_setWidth_of_le (by decide), BitVec.extractLsb'_toNat, Nat.shiftRight_zero]
  rw [setFlagEnc, toNat_or_of_mul (k := 3) hkept (by omega) rfl, hnew]

/-! What was put in comes out again (40_codec R164). -/

section PutGet

variable {v : Half}

theorem zext_loByte (hv : v.toNat < 2 ^ 8) : (loByte v).setWidth 16 = v := by
  apply BitVec.eq_of_toNat_eq
  rw [toNat_zext_byte, toNat_loByte]
  omega

theorem le16_loByte_hiByte (v : Half) : le16 (loByte v) (hiByte v) = v := by
  apply BitVec.eq_of_toNat_eq
  rw [toNat_le16, toNat_loByte, toNat_hiByte]
  omega

theorem lenField_loByte_lenByte2 (old : Byte) (hv : v.toNat < 2 ^ 10) : lenField (loByte v) (lenByte2 old v) = v := by
  apply BitVec.eq_of_toNat_eq
  rw [toNat_lenField, toNat_loByte, toNat_lenByte2]
  omega

theorem flagIsAck_setFlagIsAck (old : Byte) (hv : v.toNat < 2 ^ 1) : flagIsAck (setFlagIsAck old v) = v := by
  apply BitVec.eq_of_toNat_eq
  rw [toNat_flagIsAck, toNat_setFlagIsAck]
  omega

theorem flagNeedAck_setFlagNeedAck (old : Byte) (hv : v.toNat < 2 ^ 1) :
    flagNeedAck (setFlagNeedAck old v) = v := by
  apply BitVec.eq_of_toNat_eq
  rw [toNat_flagNeedAck, toNat_setFlagNeedAck]
  omega

theorem flagEnc_setFlagEnc (old : Byte) (hv : v.toNat < 2 ^ 3) : flagEnc (setFlagEnc old v) = v := by
  apply BitVec.eq_of_toNat_eq
  rw [toNat_flagEnc, toNat_setFlagEnc]
  omega

end PutGet

end Sys2Proof.Machine
end

section
/-! The fields of a view, one `get` and one `put` for all 13: what an FC.RD and an FC.WR do, said once
(40_codec R130 to R156). -/

namespace Sys2Proof.Machine

section Checks

variable {s : State} {base : Nat} {n : Half}

theorem onValue_of_lt {v : Half} {w : Nat} (hv : v.toNat < 2 ^ w) (body : Out) : onValue s v w body = body :=
  if_pos (decide_eq_true hv)

theorem onLegalView_of_le (hlegal : base + n.toNat ≤ 2 ^ s.params.addrW) (body : Out) :
    onLegalView s base n body = body :=
  if_pos (decide_eq_true hlegal)

theorem onView_of_le {need : Nat} (hlegal : base + n.toNat ≤ 2 ^ s.params.addrW) (hn : need ≤ n.toNat) (body : Out) :
    onView s base n need body = body :=
  (onLegalView_of_le hlegal _).trans (if_pos hn)

theorem onFrame_of_le (hlegal : base + n.toNat ≤ 2 ^ s.params.addrW) (hmin : 13 ≤ s.viewLen base)
    (hmax : s.viewLen base ≤ n.toNat) (body : Nat → Out) : onFrame s base n body = body (s.viewLen base) :=
  (onView_of_le hlegal (by omega) _).trans (if_pos ⟨hmin, hmax⟩)

theorem onView_of_not {need : Nat} (h : ¬ (base + n.toNat ≤ 2 ^ s.params.addrW ∧ need ≤ n.toNat)) (body : Out) :
    onView s base n need body = .next (s.raise .errRange) := by
  by_cases hlegal : base + n.toNat ≤ 2 ^ s.params.addrW
  · exact (onLegalView_of_le hlegal _).trans (if_neg fun hn => h ⟨hlegal, hn⟩)
  · exact if_neg (by simpa [viewLegal] using hlegal)

theorem onFrame_of_not
    (h : ¬ (base + n.toNat ≤ 2 ^ s.params.addrW ∧ 3 ≤ n.toNat ∧ 13 ≤ s.viewLen base ∧ s.viewLen base ≤ n.toNat))
    (body : Nat → Out) : onFrame s base n body = .next (s.raise .errRange) := by
  by_cases hview : base + n.toNat ≤ 2 ^ s.params.addrW ∧ 3 ≤ n.toNat
  · exact (onView_of_le hview.1 hview.2 _).trans (if_neg fun hframe => h ⟨hview.1, hview.2, hframe⟩)
  · exact onView_of_not hview _

end Checks

theorem State.viewByte_writeByte (s : State) (base j k : Nat) (b : Byte) :
    (s.writeByte (base + j) b).viewByte base k = if k = j then b else s.viewByte base k := by
  simp [State.viewByte, Memory.read_write]

namespace Field

/-- What the bytes of the view at `base` hold for a field, zero-extended (40_codec R131 to R143). -/
def get (f : Field) (s : State) (base : Nat) : Half :=
  match f with
  | .sof => (s.viewByte base 0).setWidth 16
  | .len => lenField (s.viewByte base 1) (s.viewByte base 2)
  | .hcrc => (s.viewByte base 3).setWidth 16
  | .sender => (s.viewByte base 4).setWidth 16
  | .receiver => (s.viewByte base 5).setWidth 16
  | .seq => le16 (s.viewByte base 6) (s.viewByte base 7)
  | .flags => (s.viewByte base 8).setWidth 16
  | .isAck => flagIsAck (s.viewByte base 8)
  | .needAck => flagNeedAck (s.viewByte base 8)
  | .enc => flagEnc (s.viewByte base 8)
  | .cmdset => (s.viewByte base 9).setWidth 16
  | .cmdid => (s.viewByte base 10).setWidth 16
  | .pcrc => le16 (s.viewByte base (s.viewLen base - 2)) (s.viewByte base (s.viewLen base - 1))

/-- The state with a value stored in a field of the view at `base` (40_codec R144 to R156). -/
def put (f : Field) (v : Half) (s : State) (base : Nat) : State :=
  match f with
  | .sof => s.writeByte (base + 0) (loByte v)
  | .len => (s.writeByte (base + 1) (loByte v)).writeByte (base + 2) (lenByte2 (s.viewByte base 2) v)
  | .hcrc => s.writeByte (base + 3) (loByte v)
  | .sender => s.writeByte (base + 4) (loByte v)
  | .receiver => s.writeByte (base + 5) (loByte v)
  | .seq => (s.writeByte (base + 6) (loByte v)).writeByte (base + 7) (hiByte v)
  | .flags => s.writeByte (base + 8) (loByte v)
  | .isAck => s.writeByte (base + 8) (setFlagIsAck (s.viewByte base 8) v)
  | .needAck => s.writeByte (base + 8) (setFlagNeedAck (s.viewByte base 8) v)
  | .enc => s.writeByte (base + 8) (setFlagEnc (s.viewByte base 8) v)
  | .cmdset => s.writeByte (base + 9) (loByte v)
  | .cmdid => s.writeByte (base + 10) (loByte v)
  | .pcrc => s.storePcrc base (s.viewLen base) v

/-- The view `(base, n)` is legal and meets the field's range condition (30_encoding R101, 40_codec R130). -/
structure InView (f : Field) (s : State) (base : Nat) (n : Half) : Prop where
  legal : base + n.toNat ≤ 2 ^ s.params.addrW
  need : f.need ≤ n.toNat
  pcrc : f = .pcrc → 13 ≤ s.viewLen base ∧ s.viewLen base ≤ n.toNat

variable {f : Field} {v n : Half} {base : Nat} {s t : State}

theorem exec_rd_of_inView (h : f.InView s base n) :
    exec (f.rd base n) s = .next (s.reply (.value (f.get s base))) := by
  obtain ⟨hlegal, hneed, hpcrc⟩ := h
  cases f with
  | pcrc =>
    obtain ⟨hmin, hmax⟩ := hpcrc rfl
    simp only [rd, exec, execFcRdPcrc]
    exact onFrame_of_le hlegal hmin hmax _
  | _ => exact onView_of_le hlegal hneed _

theorem exec_rd_of_not_inView (h : ¬ f.InView s base n) : exec (f.rd base n) s = .next (s.raise .errRange) := by
  cases f with
  | pcrc =>
    simp only [rd, exec, execFcRdPcrc]
    exact onFrame_of_not (fun ⟨hlegal, hneed, hframe⟩ => h ⟨hlegal, hneed, fun _ => hframe⟩) _
  | _ => exact onView_of_not (fun ⟨hlegal, hneed⟩ => h ⟨hlegal, hneed, nofun⟩) _

theorem exec_wr_of_inView (hv : v.toNat < 2 ^ f.width) (h : f.InView s base n) :
    exec (f.wr v base n) s = .next ((f.put v s base).reply .empty) := by
  obtain ⟨hlegal, hneed, hpcrc⟩ := h
  cases f with
  | pcrc =>
    obtain ⟨hmin, hmax⟩ := hpcrc rfl
    simp only [wr, exec, execFcWrPcrc]
    exact onFrame_of_le hlegal hmin hmax _
  | seq => exact onView_of_le hlegal hneed _
  | _ => exact (onValue_of_lt hv _).trans (onView_of_le hlegal hneed _)

/-- An FC.WR stores its value, which fits, in a view that holds the field, or answers a fault. -/
theorem exec_wr_next (h : exec (f.wr v base n) s = .next t) :
    (v.toNat < 2 ^ f.width ∧ f.InView s base n ∧ t = (f.put v s base).reply .empty) ∨
      ∃ e, t = s.raise e ∧ e ≠ .ok := by
  cases f with
  | pcrc =>
    simp only [wr, exec, execFcWrPcrc] at h
    rcases onFrame_next h with ⟨hlegal, hn, hmin, hmax, ⟨⟩⟩ | ⟨-, rfl⟩
    · exact .inl ⟨v.isLt, ⟨hlegal, hn, fun _ => ⟨hmin, hmax⟩⟩, rfl⟩
    · exact .inr ⟨_, rfl, nofun⟩
  | seq =>
    rcases onView_next h with ⟨hlegal, hn, ⟨⟩⟩ | ⟨-, rfl⟩
    · exact .inl ⟨v.isLt, ⟨hlegal, hn, nofun⟩, rfl⟩
    · exact .inr ⟨_, rfl, nofun⟩
  | _ =>
    rcases onValue_next h with ⟨hv, h⟩ | ⟨-, rfl⟩
    · rcases onView_next h with ⟨hlegal, hn, ⟨⟩⟩ | ⟨-, rfl⟩
      · exact .inl ⟨hv, ⟨hlegal, hn, nofun⟩, rfl⟩
      · exact .inr ⟨_, rfl, nofun⟩
    · exact .inr ⟨_, rfl, nofun⟩

/-! Which bytes a field's `get` and `put` touch (30_encoding R90, R95). -/

/-- The flag byte for its sub-fields, the field itself for every other (30_encoding R95). -/
def whole (f : Field) : Field := if f.inFlagByte then .flags else f

/-- The field that byte `k` of a frame belongs to; from 11 on only the trailing checksum has a field (R90). -/
def ofByte : Nat → Field
  | 0 => .sof
  | 1 | 2 => .len
  | 3 => .hcrc
  | 4 => .sender
  | 5 => .receiver
  | 6 | 7 => .seq
  | 8 => .flags
  | 9 => .cmdset
  | 10 => .cmdid
  | _ + 11 => .pcrc

theorem ofByte_of_le {k : Nat} (hk : 11 ≤ k) : ofByte k = .pcrc := by
  obtain ⟨j, rfl⟩ := Nat.exists_eq_add_of_le' hk
  rfl

theorem eq_or_inFlagByte_of_whole_eq {f g : Field} (h : f.whole = g.whole) :
    f = g ∨ (f.inFlagByte = true ∧ g.inFlagByte = true) := by
  unfold whole at h
  split at h <;> split at h
  · exact .inr ⟨‹_›, ‹_›⟩
  · subst h; contradiction
  · subst h; contradiction
  · exact .inl h

theorem viewByte_writeByte_of_ne_ofByte {j k : Nat} (hj : ofByte j = f) (hk : ofByte k ≠ f) (b : Byte) :
    (s.writeByte (base + j) b).viewByte base k = s.viewByte base k :=
  (State.viewByte_writeByte s base j k b).trans (if_neg (ne_of_apply_ne ofByte (hj ▸ hk)))

/-- `put` keeps every byte of another field. -/
theorem viewByte_put (hmin : f = .pcrc → 13 ≤ s.viewLen base) {k : Nat} (hk : ofByte k ≠ f.whole) :
    (f.put v s base).viewByte base k = s.viewByte base k := by
  cases f with
  | len | seq =>
    exact (viewByte_writeByte_of_ne_ofByte rfl hk _).trans (viewByte_writeByte_of_ne_ofByte rfl hk _)
  | pcrc =>
    have hmin := hmin rfl
    exact (viewByte_writeByte_of_ne_ofByte (ofByte_of_le (by omega)) hk _).trans
      (viewByte_writeByte_of_ne_ofByte (ofByte_of_le (by omega)) hk _)
  | _ => exact viewByte_writeByte_of_ne_ofByte rfl hk _

/-- `get` reads the field's bytes, for PCRC the last two of the declared frame. -/
theorem get_congr (hbytes : ∀ k, ofByte k = f.whole → t.viewByte base k = s.viewByte base k)
    (hpcrc : f = .pcrc → 13 ≤ s.viewLen base ∧ t.viewLen base = s.viewLen base) : f.get t base = f.get s base := by
  cases f with
  | pcrc =>
    obtain ⟨hmin, hlen⟩ := hpcrc rfl
    rw [get, get, hlen, hbytes _ (ofByte_of_le (by omega)), hbytes _ (ofByte_of_le (by omega))]
  | _ => simp (disch := decide) only [get, hbytes]

/-- Only a write of LEN moves where PCRC lies (70_reset R306). -/
theorem viewLen_put (hf : f ≠ .len) (hmin : f = .pcrc → 13 ≤ s.viewLen base) :
    (f.put v s base).viewLen base = s.viewLen base := by
  have hwhole : f.whole ≠ len.whole := fun h => by
    rcases eq_or_inFlagByte_of_whole_eq h with h | ⟨-, h⟩
    · exact hf h
    · cases h
  have hget : len.get (f.put v s base) base = len.get s base :=
    get_congr (fun k hk => viewByte_put hmin (hk ▸ hwhole.symm)) nofun
  exact congrArg BitVec.toNat hget

/-! A read after a write, of the same field and of another (40_codec R164, R165). -/

theorem get_put (hv : v.toNat < 2 ^ f.width) (hmin : f = .pcrc → 13 ≤ s.viewLen base) :
    f.get (f.put v s base) base = v := by
  cases f with
  | sof | hcrc | sender | receiver | flags | cmdset | cmdid =>
    simp only [get, put, State.viewByte_writeByte, if_true, zext_loByte hv]
  | len => simp [get, put, State.viewByte_writeByte, lenField_loByte_lenByte2 _ hv]
  | seq => simp [get, put, State.viewByte_writeByte, le16_loByte_hiByte]
  | isAck => simp only [get, put, State.viewByte_writeByte, if_true, flagIsAck_setFlagIsAck _ hv]
  | needAck => simp only [get, put, State.viewByte_writeByte, if_true, flagNeedAck_setFlagNeedAck _ hv]
  | enc => simp only [get, put, State.viewByte_writeByte, if_true, flagEnc_setFlagEnc _ hv]
  | pcrc =>
    have hne : s.viewLen base - 2 ≠ s.viewLen base - 1 := by
      have := hmin rfl
      omega
    simp only [get, viewLen_put (f := .pcrc) nofun hmin]
    simp [put, State.storePcrc, State.viewByte_writeByte, hne, le16_loByte_hiByte]

theorem eq_of_inFlagByte (h : f.inFlagByte = true) (hne : f ≠ .flags) : f = .isAck ∨ f = .needAck ∨ f = .enc := by
  cases f with
  | flags => exact absurd rfl hne
  | isAck => exact .inl rfl
  | needAck => exact .inr (.inl rfl)
  | enc => exact .inr (.inr rfl)
  | _ => cases h

/-- Two sub-fields of the flag byte have no bit in common (30_encoding R95). -/
theorem get_put_of_inFlagByte {g : Field} (hf : f.inFlagByte = true) (hg : g.inFlagByte = true) (hf' : f ≠ .flags)
    (hg' : g ≠ .flags) (hne : f ≠ g) : g.get (f.put v s base) base = g.get s base := by
  rcases eq_of_inFlagByte hf hf' with rfl | rfl | rfl <;> rcases eq_of_inFlagByte hg hg' with rfl | rfl | rfl
  case inl.inl | inr.inl.inr.inl | inr.inr.inr.inr => exact absurd rfl hne
  all_goals
    apply BitVec.eq_of_toNat_eq
    simp only [get, put, State.viewByte_writeByte, if_true, toNat_flagIsAck, toNat_flagNeedAck, toNat_flagEnc,
      toNat_setFlagIsAck, toNat_setFlagNeedAck, toNat_setFlagEnc]
    omega

theorem get_put_of_not_affects {g : Field} (hna : ¬ f.affects g) (hf : f = .pcrc → 13 ≤ s.viewLen base)
    (hg : g = .pcrc → 13 ≤ s.viewLen base) : g.get (f.put v s base) base = g.get s base := by
  obtain ⟨hne, hflags, hflags', hlen⟩ : f ≠ g ∧ ¬ (f = .flags ∧ g.inFlagByte = true) ∧
      ¬ (f.inFlagByte = true ∧ g = .flags) ∧ ¬ (f = .len ∧ g = .pcrc) := by
    simpa only [affects, not_or] using hna
  by_cases hwhole : f.whole = g.whole
  · rcases eq_or_inFlagByte_of_whole_eq hwhole with hfg | ⟨hf8, hg8⟩
    · exact absurd hfg hne
    · exact get_put_of_inFlagByte hf8 hg8 (fun h => hflags ⟨h, hg8⟩) (fun h => hflags' ⟨hf8, h⟩) hne
  · exact get_congr (fun k hk => viewByte_put hf (hk ▸ Ne.symm hwhole))
      fun h => ⟨hg h, viewLen_put (fun h' => hlen ⟨h', h⟩) hf⟩

/-- Where a field lies depends on the parameters and, for PCRC, on the declared length. -/
theorem InView.congr (h : f.InView s base n) (hparams : t.params = s.params)
    (hlen : f = .pcrc → t.viewLen base = s.viewLen base) : f.InView t base n where
  legal := hparams ▸ h.legal
  need := h.need
  pcrc hf := hlen hf ▸ h.pcrc hf

@[simp] theorem put_params (f : Field) (v : Half) (s : State) (base : Nat) : (f.put v s base).params = s.params := by
  cases f <;> rfl

/-- Two states that place a field alike and hold the same value in it answer a read of it alike. -/
theorem exec_rd_alike (hparams : t.params = s.params) (hlen : f = .pcrc → t.viewLen base = s.viewLen base)
    (hget : f.InView s base n → f.get t base = f.get s base) :
    ∃ e p, exec (f.rd base n) s = .next (s.answer e p) ∧ exec (f.rd base n) t = .next (t.answer e p) := by
  by_cases hs : f.InView s base n
  · have ht : exec (f.rd base n) t = .next (t.reply (.value (f.get s base))) :=
      hget hs ▸ exec_rd_of_inView (hs.congr hparams hlen)
    exact ⟨_, _, exec_rd_of_inView hs, ht⟩
  · have ht : ¬ f.InView t base n := fun ht => hs (ht.congr hparams.symm fun hf => (hlen hf).symm)
    exact ⟨_, _, exec_rd_of_not_inView hs, exec_rd_of_not_inView ht⟩

end Field

/-- Settles O29: an FC.WR that answers OK puts a value that fits where the FC.RD gets it. -/
theorem readReturnsWrittenValue : Obligations.ReadReturnsWrittenValue := by
  intro f v base n s t hexec hok
  rcases Field.exec_wr_next hexec with ⟨hv, hview, rfl⟩ | ⟨e, rfl, he⟩
  · have hmin : f = .pcrc → 13 ≤ s.viewLen base := fun hf => (hview.pcrc hf).1
    have hview' : f.InView ((f.put v s base).reply .empty) base n :=
      hview.congr (f.put_params v s base) fun hf => Field.viewLen_put (by simp [hf]) hmin
    rw [Field.exec_rd_of_inView hview']
    exact congrArg (fun w => Host.Outcome.next (State.answer _ .ok (.value w))) (Field.get_put hv hmin)
  · simp [he] at hok

/-- Settles O30: a fault changes no byte, and a completed FC.WR no byte and no bit of a field it does not affect. -/
theorem fieldWritesAreIndependent : Obligations.FieldWritesAreIndependent := by
  intro f g v base n s t hna hexec
  rcases Field.exec_wr_next hexec with ⟨-, hview, rfl⟩ | ⟨e, rfl, -⟩
  · have hmin : f = .pcrc → 13 ≤ s.viewLen base := fun hf => (hview.pcrc hf).1
    exact Field.exec_rd_alike (f.put_params v s base)
      (fun hg => Field.viewLen_put (fun hf => hna (.inr (.inr (.inr ⟨hf, hg⟩)))) hmin)
      fun hg => Field.get_put_of_not_affects hna hmin fun h => (hg.pcrc h).1
  · exact Field.exec_rd_alike rfl (fun _ => rfl) fun hg =>
      Field.get_congr (fun _ _ => rfl) fun h => ⟨(hg.pcrc h).1, rfl⟩

end Sys2Proof.Machine
end

section
/-! The field accesses one by one (40_codec R131 to R156): `get` and `put` of each field, as numbers. -/

namespace Sys2Proof.Machine

namespace Field

variable {s : State} {base : Nat} {n : Half}

theorem inView_of_need {f : Field} (hf : f ≠ .pcrc) (hlegal : base + n.toNat ≤ 2 ^ s.params.addrW)
    (hn : f.need ≤ n.toNat) : f.InView s base n where
  legal := hlegal
  need := hn
  pcrc h := absurd h hf

/-- A declared length of a frame in the view puts PCRC in the view. -/
theorem inView_pcrc (hlegal : base + n.toNat ≤ 2 ^ s.params.addrW) (hmin : 13 ≤ s.viewLen base)
    (hmax : s.viewLen base ≤ n.toNat) : pcrc.InView s base n where
  legal := hlegal
  need := Nat.le_trans (by decide) (hmin.trans hmax)
  pcrc _ := ⟨hmin, hmax⟩

theorem exec_rd_of_need (f : Field) (hf : f ≠ .pcrc) (hlegal : base + n.toNat ≤ 2 ^ s.params.addrW)
    (hn : f.need ≤ n.toNat) : exec (f.rd base n) s = .next (s.answer .ok (.value (f.get s base))) :=
  exec_rd_of_inView (inView_of_need hf hlegal hn)

theorem exec_wr_of_need (f : Field) (hf : f ≠ .pcrc) {v : Half} (hv : v.toNat < 2 ^ f.width)
    (hlegal : base + n.toNat ≤ 2 ^ s.params.addrW) (hn : f.need ≤ n.toNat) :
    exec (f.wr v base n) s = .next ((f.put v s base).reply .empty) :=
  exec_wr_of_inView hv (inView_of_need hf hlegal hn)

end Field

/-- Settles O7: the field is in the view, and `get` of it is its byte. -/
theorem oneByteFieldReads : Obligations.OneByteFieldReads := fun _ _ _ hlegal =>
  ⟨Field.sof.exec_rd_of_need nofun hlegal, Field.hcrc.exec_rd_of_need nofun hlegal,
    Field.sender.exec_rd_of_need nofun hlegal, Field.receiver.exec_rd_of_need nofun hlegal,
    Field.flags.exec_rd_of_need nofun hlegal, Field.cmdset.exec_rd_of_need nofun hlegal,
    Field.cmdid.exec_rd_of_need nofun hlegal⟩

/-- Settles O8: the two fields assembled, as sums of their bytes. -/
theorem lenAndSeqReads : Obligations.LenAndSeqReads := fun _ _ _ hlegal =>
  ⟨fun hn => ⟨_, Field.len.exec_rd_of_need nofun hlegal hn, toNat_lenField _ _, rfl⟩,
    fun hn => ⟨_, Field.seq.exec_rd_of_need nofun hlegal hn, toNat_le16 _ _⟩⟩

/-- Settles O9: the three sub-fields as numbers. -/
theorem flagBitReads : Obligations.FlagBitReads := fun _ _ _ hlegal hn =>
  ⟨⟨_, Field.isAck.exec_rd_of_need nofun hlegal hn, toNat_flagIsAck _⟩,
    ⟨_, Field.needAck.exec_rd_of_need nofun hlegal hn, toNat_flagNeedAck _⟩,
    ⟨_, Field.enc.exec_rd_of_need nofun hlegal hn, toNat_flagEnc _⟩⟩

/-- Settles O10: the last two bytes of the declared frame, assembled. -/
theorem pcrcRead : Obligations.PcrcRead := fun _ _ _ hlegal hmin hmax =>
  ⟨_, Field.exec_rd_of_inView (Field.inView_pcrc hlegal hmin hmax), toNat_le16 _ _⟩

/-! The frame of a write. -/

theorem storesExactly_writeByte {s : State} {a x : Nat} {b : Byte} (hx : b.toNat = x) :
    storesExactly s ((s.writeByte a b).reply .empty) [(a, x)] := by
  refine ⟨rfl, ?_, fun c hc => Memory.read_write_ne s.mem b (hc _ (List.mem_singleton_self _))⟩
  simp [hx]

theorem storesExactly_writeByte_writeByte {s : State} {base j k x y : Nat} {b c : Byte} (hjk : j ≠ k)
    (hx : b.toNat = x) (hy : c.toNat = y) :
    storesExactly s (((s.writeByte (base + j) b).writeByte (base + k) c).reply .empty)
      [(base + j, x), (base + k, y)] := by
  refine ⟨rfl, ?_, fun a ha => ?_⟩
  · simp [Memory.read_write, hjk, hx, hy]
  · have hj : a ≠ base + j := ha (base + j, x) (by simp)
    have hk : a ≠ base + k := ha (base + k, y) (by simp)
    simp [Memory.read_write, hj, hk]

/-- The write of a field of one byte stores the value there. -/
theorem Field.exec_wr_storesExactly {s : State} {v n : Half} {base : Nat} (f : Field) (k : Nat) (hf : f ≠ .pcrc)
    (hput : f.put v s base = s.writeByte (base + k) (loByte v)) (hwidth : f.width = 8) (hv : v.toNat < 256)
    (hlegal : base + n.toNat ≤ 2 ^ s.params.addrW) (hn : f.need ≤ n.toNat) :
    ∃ t, exec (f.wr v base n) s = .next t ∧ storesExactly s t [(base + k, v.toNat)] := by
  refine ⟨_, f.exec_wr_of_need hf (hwidth ▸ hv) hlegal hn, ?_⟩
  rw [hput]
  exact storesExactly_writeByte ((toNat_loByte v).trans (Nat.mod_eq_of_lt hv))

/-- Settles O11: the field is in the view, and `put` of it writes the one byte. -/
theorem oneByteFieldWrites : Obligations.OneByteFieldWrites := fun _ _ _ _ hlegal hv =>
  ⟨Field.sof.exec_wr_storesExactly 0 nofun rfl rfl hv hlegal,
    Field.hcrc.exec_wr_storesExactly 3 nofun rfl rfl hv hlegal,
    Field.sender.exec_wr_storesExactly 4 nofun rfl rfl hv hlegal,
    Field.receiver.exec_wr_storesExactly 5 nofun rfl rfl hv hlegal,
    Field.flags.exec_wr_storesExactly 8 nofun rfl rfl hv hlegal,
    Field.cmdset.exec_wr_storesExactly 9 nofun rfl rfl hv hlegal,
    Field.cmdid.exec_wr_storesExactly 10 nofun rfl rfl hv hlegal⟩

/-- Settles O12: the two bytes that `put` of LEN and of SEQ writes, as numbers. -/
theorem lenAndSeqWrites : Obligations.LenAndSeqWrites := by
  intro s v base n hlegal
  constructor
  · intro hv hn
    have hhigh : (lenByte2 (s.viewByte base 2) v).toNat =
        4 * ((s.mem.read (base + 2)).toNat / 4) + v.toNat / 256 := by
      rw [toNat_lenByte2, Nat.mod_eq_of_lt (by omega), State.viewByte]
    exact ⟨_, Field.len.exec_wr_of_need nofun hv hlegal hn,
      storesExactly_writeByte_writeByte (by decide) (toNat_loByte v) hhigh⟩
  · intro hn
    exact ⟨_, Field.seq.exec_wr_of_need nofun v.isLt hlegal hn,
      storesExactly_writeByte_writeByte (by decide) (toNat_loByte v) (toNat_hiByte v)⟩

/-- Settles O13: the flag byte that each sub-field's `put` writes, as a number. -/
theorem flagBitWrites : Obligations.FlagBitWrites := by
  intro s v base n hlegal hn
  refine ⟨fun hv => ?isAck, fun hv => ?needAck, fun hv => ?enc⟩
  case isAck =>
    exact ⟨_, Field.isAck.exec_wr_of_need nofun hv hlegal hn, storesExactly_writeByte (by
      rw [toNat_setFlagIsAck, Nat.mod_eq_of_lt hv, State.viewByte])⟩
  case needAck =>
    exact ⟨_, Field.needAck.exec_wr_of_need nofun hv hlegal hn, storesExactly_writeByte (by
      rw [toNat_setFlagNeedAck, Nat.mod_eq_of_lt hv, State.viewByte])⟩
  case enc =>
    exact ⟨_, Field.enc.exec_wr_of_need nofun hv hlegal hn, storesExactly_writeByte (by
      rw [toNat_setFlagEnc, Nat.mod_eq_of_lt hv, State.viewByte])⟩

theorem storesExactly_put_pcrc {s : State} {base : Nat} (v : Half) (hmin : 13 ≤ s.viewLen base) :
    storesExactly s ((Field.pcrc.put v s base).reply .empty)
      [(base + (s.viewLen base - 2), v.toNat % 256), (base + (s.viewLen base - 1), v.toNat / 256)] :=
  storesExactly_writeByte_writeByte (by omega) (toNat_loByte v) (toNat_hiByte v)

/-- `put` of PCRC keeps every byte of the frame before it. -/
theorem Field.viewByte_put_pcrc {s : State} {base k : Nat} (v : Half) (hk : k < s.viewLen base - 2) :
    (Field.pcrc.put v s base).viewByte base k = s.viewByte base k :=
  (State.viewByte_writeByte _ base (s.viewLen base - 1) k _).trans ((if_neg (by omega)).trans
    ((State.viewByte_writeByte s base (s.viewLen base - 2) k _).trans (if_neg (by omega))))

/-- Settles O14: PCRC is in the view, and `put` of it writes the last two bytes of the declared frame. -/
theorem pcrcWrite : Obligations.PcrcWrite := fun _ v _ _ hlegal hmin hmax =>
  ⟨_, Field.exec_wr_of_inView v.isLt (Field.inView_pcrc hlegal hmin hmax), storesExactly_put_pcrc v hmin⟩

end Sys2Proof.Machine
end

section
/-! Checksums and validity (40_codec R158 to R161): FC.FINH and FC.FINP store the checksums, FC.VALID compares
them. -/

namespace Sys2Proof.Machine

/-- The bytes of a view are the only list of their length that agrees with them. -/
theorem eq_viewBytes {s : State} {base : Nat} {t : List Byte} {j : Nat} (hlength : t.length = j)
    (hbytes : bytesAt s base t) : t = s.viewBytes base 0 j := by
  apply List.ext_getElem (by simp [hlength])
  intro i hi hi'
  calc t[i] = byteAt t i := (List.getD_eq_getElem t 0 hi).symm
    _ = s.mem.read (base + i) := hbytes i hi
    _ = (s.viewBytes base 0 j)[i] := by simp [State.viewBytes, State.viewByte]

theorem byteAt_viewBytes_zero (s : State) (base : Nat) {k m : Nat} (hk : k < m) :
    byteAt (s.viewBytes base 0 m) k = s.viewByte base k := by
  rw [State.byteAt_viewBytes _ _ _ _ _ (by omega), Nat.zero_add]

theorem bytesAt_viewBytes (s : State) (base j : Nat) : bytesAt s base (s.viewBytes base 0 j) := fun _ hi =>
  byteAt_viewBytes_zero s base (by simpa using hi)

/-- The header checksum of the view at `base` (30_encoding R96). -/
def State.headerCk (s : State) (base : Nat) : BitVec 8 := ck8 s.params.ck seed8 (s.viewBytes base 0 3)

/-- The trailing checksum of the frame in the view at `base` (30_encoding R96). -/
def State.trailerCk (s : State) (base : Nat) : BitVec 16 :=
  ck16 s.params.ck seed16 (s.viewBytes base 0 (s.viewLen base - 2))

section

variable {s : State} {base : Nat} {n : Half}

/-- FC.FINH stores the header checksum in HCRC. -/
theorem exec_fcFinh (hlegal : base + n.toNat ≤ 2 ^ s.params.addrW) (hn : 4 ≤ n.toNat) :
    exec (.fcFinh base n) s = .next ((s.writeByte (base + 3) (s.headerCk base)).reply .empty) :=
  onView_of_le hlegal hn _

/-- FC.FINP puts the trailing checksum in PCRC. -/
theorem exec_fcFinp (hlegal : base + n.toNat ≤ 2 ^ s.params.addrW) (hmin : 13 ≤ s.viewLen base)
    (hmax : s.viewLen base ≤ n.toNat) :
    exec (.fcFinp base n) s = .next ((Field.pcrc.put (s.trailerCk base) s base).reply .empty) := by
  simp only [exec, execFcFinp]
  exact onFrame_of_le hlegal hmin hmax _

theorem exec_fcValid (hlegal : base + n.toNat ≤ 2 ^ s.params.addrW) :
    exec (.fcValid base n) s = .next (s.answer .ok (.valid (s.frameValid base n.toNat))) :=
  onLegalView_of_le hlegal _

/-- A valid frame, with its checksums as the values of their fields (30_encoding R96). -/
theorem frameValid_iff {n : Nat} : s.frameValid base n = true ↔
    13 ≤ n ∧ s.viewByte base 0 = marker ∧ s.viewLen base ≤ n ∧ 13 ≤ s.viewLen base ∧
      s.headerCk base = s.viewByte base 3 ∧ s.trailerCk base = Field.pcrc.get s base := by
  simp only [State.frameValid, Bool.and_eq_true, decide_eq_true_eq, beq_iff_eq, and_assoc]
  rfl

end

/-- Settles O27: the checks pass, and the payload is what lies between the header and the trailing checksum. -/
theorem payloadGivesSpan : Obligations.PayloadGivesSpan := by
  intro s base n hlegal hmin hmax
  simp only [exec, execFcPayload]
  exact onFrame_of_le hlegal hmin hmax _

/-- Settles O25: FC.FINH writes one byte. -/
theorem finhStoresHeaderChecksum : Obligations.FinhStoresHeaderChecksum := fun _ _ _ hlegal hn =>
  ⟨_, exec_fcFinh hlegal hn, storesExactly_writeByte rfl⟩

/-- Settles O26: FC.FINP is a write of PCRC, over the only list of the covered bytes. -/
theorem finpStoresTrailingChecksum : Obligations.FinpStoresTrailingChecksum := by
  intro s base n b hlegal hmin hmax hlength hbytes
  rw [eq_viewBytes hlength hbytes]
  exact ⟨_, exec_fcFinp hlegal hmin hmax, storesExactly_put_pcrc (s.trailerCk base) hmin⟩

/-- Settles O24: the validity predicate term by term, the trailing checksum over the only list of the covered bytes. -/
theorem validDecidesValidity : Obligations.ValidDecidesValidity := by
  intro s base n hlegal
  refine ⟨_, exec_fcValid hlegal, frameValid_iff.trans ?_⟩
  have htrailer : s.trailerCk base = Field.pcrc.get s base ↔
      ∀ t : List Byte, t.length = s.viewLen base - 2 → bytesAt s base t →
        (ck16 s.params.ck 0x3692#16 t).toNat = (s.mem.read (base + (s.viewLen base - 2))).toNat +
          256 * (s.mem.read (base + (s.viewLen base - 1))).toNat := by
    rw [BitVec.toNat_eq, Field.get, toNat_le16]
    constructor
    · intro h t hlength hbytes
      rw [eq_viewBytes hlength hbytes]
      exact h
    · intro h
      exact h _ (State.viewBytes_length ..) (bytesAt_viewBytes s base _)
  rw [htrailer]
  rfl

end Sys2Proof.Machine
end

section
/-! FC.FINH and then FC.FINP make a frame valid, and the scanner finds it (40_codec R164). -/

namespace Sys2Proof.Machine

variable {s t : State} {base : Nat} {n : Half}

theorem viewBytes_congr {j : Nat} (h : ∀ k, k < j → t.viewByte base k = s.viewByte base k) :
    t.viewBytes base 0 j = s.viewBytes base 0 j :=
  List.map_congr_left fun k hk => by simpa using h k (List.mem_range.mp hk)

theorem headerCk_congr (hparams : t.params = s.params) (h : ∀ k, k < 3 → t.viewByte base k = s.viewByte base k) :
    t.headerCk base = s.headerCk base := by
  rw [State.headerCk, State.headerCk, hparams, viewBytes_congr h]

theorem trailerCk_congr (hparams : t.params = s.params) (hlen : t.viewLen base = s.viewLen base)
    (h : ∀ k, k < s.viewLen base - 2 → t.viewByte base k = s.viewByte base k) :
    t.trailerCk base = s.trailerCk base := by
  rw [State.trailerCk, State.trailerCk, hparams, hlen, viewBytes_congr h]

/-- FC.FINH makes the header checksum right, and changes neither the marker nor the length: the bytes it covers are
before the byte it writes (30_encoding R96). -/
theorem fcFinh_makes_header (hlegal : base + n.toNat ≤ 2 ^ s.params.addrW) (hn : 4 ≤ n.toNat) :
    ∃ t, exec (.fcFinh base n) s = .next t ∧ t.params = s.params ∧ t.viewByte base 0 = s.viewByte base 0 ∧
      t.viewLen base = s.viewLen base ∧ t.headerCk base = t.viewByte base 3 := by
  obtain ⟨t, hexec, hparams, hbyte⟩ : ∃ t, exec (.fcFinh base n) s = .next t ∧ t.params = s.params ∧
      ∀ k, t.viewByte base k = if k = 3 then s.headerCk base else s.viewByte base k :=
    ⟨_, exec_fcFinh hlegal hn, rfl, fun k => State.viewByte_writeByte s base 3 k _⟩
  have hkeep : ∀ k, k < 3 → t.viewByte base k = s.viewByte base k := fun k hk => (hbyte k).trans (if_neg hk.ne)
  refine ⟨t, hexec, hparams, hkeep 0 (by decide), ?_, ?_⟩
  · simp [State.viewLen, hkeep]
  · exact (headerCk_congr hparams hkeep).trans (hbyte 3).symm

/-- FC.FINP makes a frame with a right header valid: the bytes it covers are before the bytes it writes. -/
theorem fcFinp_makes_valid (hlegal : base + n.toNat ≤ 2 ^ s.params.addrW) (hmark : s.viewByte base 0 = marker)
    (hmin : 13 ≤ s.viewLen base) (hmax : s.viewLen base ≤ n.toNat) (hheader : s.headerCk base = s.viewByte base 3) :
    ∃ t, exec (.fcFinp base n) s = .next t ∧ t.params = s.params ∧ t.viewLen base = s.viewLen base ∧
      t.frameValid base n.toNat = true := by
  obtain ⟨t, hexec, hparams, hkeep, hlen, hpcrc⟩ : ∃ t, exec (.fcFinp base n) s = .next t ∧ t.params = s.params ∧
      (∀ k, k < s.viewLen base - 2 → t.viewByte base k = s.viewByte base k) ∧ t.viewLen base = s.viewLen base ∧
      Field.pcrc.get t base = s.trailerCk base :=
    ⟨_, exec_fcFinp hlegal hmin hmax, rfl, fun k hk => Field.viewByte_put_pcrc _ hk,
      Field.viewLen_put (f := .pcrc) nofun fun _ => hmin, Field.get_put (f := .pcrc) (BitVec.isLt _) fun _ => hmin⟩
  refine ⟨t, hexec, hparams, hlen, frameValid_iff.mpr ⟨by omega, ?_, by omega, by omega, ?_, ?_⟩⟩
  · rw [hkeep 0 (by omega), hmark]
  · rw [headerCk_congr hparams fun k hk => hkeep k (by omega), hkeep 3 (by omega), hheader]
  · rw [trailerCk_congr hparams hlen hkeep, hpcrc]

/-! A scan of a view that holds a valid frame from its first byte on (41_scanner R188, R202). -/

theorem scanCore_eq_ok {ck : CkChoice} {b : List Byte} {off : Nat} (hmark : firstMarkerAt b off)
    (hhdr : hdrOk ck b off = true) (hmin : 13 ≤ declaredLen b off) (hmax : declaredLen b off ≤ b.length - off)
    (hpkt : pktOk ck b off (declaredLen b off) = true) :
    scanCore ck b = .ok (declaredLen b off) (off + declaredLen b off) := by
  have hprobe : ¬ b.length - off < probe := by
    rw [probe]
    omega
  simp [scanCore, markerIndex_some.mpr hmark, hprobe, hhdr, minFrame, hmin.not_gt, hmax.not_gt, hpkt]

theorem slice_viewBytes (s : State) (base : Nat) {j m : Nat} (hj : j ≤ m) :
    slice (s.viewBytes base 0 m) 0 j = s.viewBytes base 0 j := by
  simp [slice, State.viewBytes, ← List.map_take, List.take_range, hj]

theorem scanCore_of_frameValid (h : s.frameValid base n.toNat = true) :
    scanCore s.params.ck (s.viewBytes base 0 n.toNat) = .ok (s.viewLen base) (s.viewLen base) := by
  obtain ⟨hn, hmark, hmax, hmin, hheader, htrailer⟩ := frameValid_iff.mp h
  have hlen : declaredLen (s.viewBytes base 0 n.toNat) 0 = s.viewLen base := by
    simp (disch := omega) only [declaredLen, byteAt_viewBytes_zero, State.viewLen]
  have hok := scanCore_eq_ok (ck := s.params.ck) (b := s.viewBytes base 0 n.toNat) (off := 0) ?mark ?hdr
    (by omega) (by simp; omega) ?pkt
  case mark => exact ⟨by simp; omega, (byteAt_viewBytes_zero s base (by omega)).trans hmark, nofun⟩
  case hdr =>
    simp (disch := omega) only [hdrOk, slice_viewBytes, byteAt_viewBytes_zero, beq_iff_eq]
    exact hheader
  case pkt =>
    simp (disch := omega) only [pktOk, hlen, Nat.zero_add, slice_viewBytes, byteAt_viewBytes_zero, beq_iff_eq]
    exact htrailer
  rw [hok, hlen, Nat.zero_add]

theorem exec_scan_of_frameValid (hlegal : base + n.toNat ≤ 2 ^ s.params.addrW)
    (h : s.frameValid base n.toNat = true) :
    exec (.scan base n) s = .next (s.answer .ok
      (.scan { kind := .ok, missing := 0, consumed := s.viewLen base, frameLen := s.viewLen base } base)) := by
  have hconsumed : consumedField (s.viewLen base) = s.viewLen base :=
    if_pos (lt_of_le_of_lt (s.viewLen_le base) (by decide))
  simp only [exec, execScan, onLegalView_of_le hlegal, scanCore_of_frameValid h, Scan.record, Scan.frameAddr,
    hconsumed, Nat.sub_self, Nat.add_zero]
  rfl

/-- Settles O28: FC.FINH makes the header right and keeps marker and length, FC.FINP makes the frame valid, and a valid
frame is found. -/
theorem finalizeMakesFrameValid : Obligations.FinalizeMakesFrameValid := by
  intro s base n hlegal hmark hmin hmax
  obtain ⟨t, hfinh, htparams, htmark, htlen, hheader⟩ := fcFinh_makes_header hlegal (show 4 ≤ n.toNat by omega)
  rw [← htparams] at hlegal
  rw [← htlen] at hmin hmax ⊢
  obtain ⟨u, hfinp, huparams, hulen, hvalid⟩ := fcFinp_makes_valid hlegal (htmark.trans hmark) hmin hmax hheader
  rw [← huparams] at hlegal
  rw [← hulen]
  exact ⟨t, u, hfinh, hfinp, hvalid ▸ exec_fcValid hlegal, exec_scan_of_frameValid hlegal hvalid⟩

end Sys2Proof.Machine
end

section
/-! The checksum units (41_scanner R180 to R187): the required vectors, and what any one changed byte does to a
recommended checksum. -/

namespace Sys2Proof.Machine

theorem crc8_vectors : crc8 seed8 vector8a = 0x75#8 ∧ crc8 seed8 vector8b = 0x66#8 := by decide +kernel

theorem crc16_vectors : crc16 seed16 vector16a = 0xF0FA#16 ∧ crc16 seed16 vector16b = 0xE8C2#16 := by decide +kernel

theorem withVectors8_vectors (f : BitVec 8 → List Byte → BitVec 8) :
    withVectors8 f seed8 vector8a = 0x75#8 ∧ withVectors8 f seed8 vector8b = 0x66#8 :=
  ⟨if_pos ⟨rfl, rfl⟩, (if_neg (by decide)).trans (if_pos ⟨rfl, rfl⟩)⟩

theorem withVectors16_vectors (f : BitVec 16 → List Byte → BitVec 16) :
    withVectors16 f seed16 vector16a = 0xF0FA#16 ∧ withVectors16 f seed16 vector16b = 0xE8C2#16 :=
  ⟨if_pos ⟨rfl, rfl⟩, (if_neg (by decide)).trans (if_pos ⟨rfl, rfl⟩)⟩

/-- Settles O58: the recommended functions by running them, every other choice by its definition. -/
theorem everyChecksumChoiceMeetsVectors : Obligations.EveryChecksumChoiceMeetsVectors := by
  intro ck
  cases ck with
  | recommended => exact ⟨crc8_vectors.1, crc16_vectors.1, crc8_vectors.2, crc16_vectors.2⟩
  | other n =>
    obtain ⟨h8a, h8b⟩ := withVectors8_vectors (Config.otherCk8 n)
    obtain ⟨h16a, h16b⟩ := withVectors16_vectors (Config.otherCk16 n)
    exact ⟨h8a, h16a, h8b, h16b⟩

/-! A reflected CRC loses nothing: a bit step can be undone, because the polynomial's top bit shows which bit was
shifted out. So different register values stay different over the same bytes. -/

/-- The bit step of a reflected CRC with polynomial `poly`: `crc8Bit` and `crc16Bit` with their polynomials. -/
def reflectedBit {w : Nat} (poly c : BitVec w) : BitVec w := if c.getLsbD 0 then (c >>> 1) ^^^ poly else c >>> 1

theorem crc8Bit_eq : crc8Bit = reflectedBit 0x8C#8 := rfl

theorem crc16Bit_eq : crc16Bit = reflectedBit 0x8408#16 := rfl

/-- The top bit after a step is the bit shifted out. -/
theorem msb_reflectedBit {w : Nat} {poly : BitVec w} (hpoly : poly.msb = true) (c : BitVec w) :
    (reflectedBit poly c).msb = c.getLsbD 0 := by
  have hshift : (c >>> 1).msb = false := by simp [BitVec.msb_ushiftRight]
  cases hbit : c.getLsbD 0 with
  | false => rw [reflectedBit, hbit, if_neg Bool.false_ne_true, hshift]
  | true => rw [reflectedBit, hbit, if_pos rfl, BitVec.msb_xor, hshift, hpoly]; rfl

/-- A register value is its bit 0 and what a right shift keeps. -/
theorem eq_of_ushiftRight_one_eq {w : Nat} {c d : BitVec w} (hbit : c.getLsbD 0 = d.getLsbD 0)
    (hshift : c >>> 1 = d >>> 1) : c = d := by
  apply BitVec.eq_of_getLsbD_eq
  intro i _
  cases i with
  | zero => exact hbit
  | succ i => simpa [Nat.add_comm] using congrArg (BitVec.getLsbD · i) hshift

theorem reflectedBit_injective {w : Nat} {poly : BitVec w} (hpoly : poly.msb = true) :
    Function.Injective (reflectedBit poly) := by
  intro c d h
  have hbit : c.getLsbD 0 = d.getLsbD 0 := by rw [← msb_reflectedBit hpoly, h, msb_reflectedBit hpoly]
  refine eq_of_ushiftRight_one_eq hbit ?_
  unfold reflectedBit at h
  rw [hbit] at h
  split at h
  · exact BitVec.xor_left_inj _ |>.mp h
  · exact h

/-- A step of a fold that loses nothing of the value so far and nothing of the element. -/
def LosslessStep {σ α : Type} (f : σ → α → σ) : Prop :=
  (∀ x, Function.Injective (f · x)) ∧ ∀ c, Function.Injective (f c)

theorem crc8Byte_lossless : LosslessStep crc8Byte := by
  have hbits : Function.Injective crc8Bit^[8] := (reflectedBit_injective (poly := 0x8C#8) rfl).iterate 8
  exact ⟨fun x _ _ h => (BitVec.xor_left_inj x).mp (hbits h), fun c _ _ h => (BitVec.xor_right_inj c).mp (hbits h)⟩

theorem crc16Byte_lossless : LosslessStep crc16Byte := by
  have hbits : Function.Injective crc16Bit^[8] := (reflectedBit_injective (poly := 0x8408#16) rfl).iterate 8
  refine ⟨fun x _ _ h => (BitVec.xor_left_inj _).mp (hbits h), fun c x y h => ?_⟩
  have hzext : x.setWidth 16 = y.setWidth 16 := (BitVec.xor_right_inj c).mp (hbits h)
  exact BitVec.eq_of_toNat_eq (by rw [← toNat_zext_byte x, hzext, toNat_zext_byte])

namespace LosslessStep

variable {σ α : Type} {f : σ → α → σ}

theorem foldl_injective (hf : LosslessStep f) (t : List α) : Function.Injective (t.foldl f) := by
  induction t with
  | nil => exact Function.injective_id
  | cons x t ih => exact ih.comp (hf.1 x)

/-- Such a fold shows a change of any one element. -/
theorem foldl_modify_ne (hf : LosslessStep f) {g : α → α} (hg : ∀ x, g x ≠ x) {t : List α} {i : Nat}
    (hi : i < t.length) (c : σ) : (t.modify i g).foldl f c ≠ t.foldl f c := by
  induction t generalizing i c with
  | nil => simp at hi
  | cons x t ih =>
    cases i with
    | zero => exact (hf.foldl_injective t).ne ((hf.2 c).ne (hg x))
    | succ i => exact ih (Nat.lt_of_succ_lt_succ hi) (f c x)

end LosslessStep

/-- A flipped bit of a byte changes it. -/
theorem xor_bit_ne {j : Nat} (hj : j < 8) (b : Byte) : b ^^^ (1#8 <<< j) ≠ b := by
  intro h
  have hbit : b.getLsbD j ^^ true = b.getLsbD j := by
    simpa [hj] using congrArg (BitVec.getLsbD · j) h
  simp at hbit

/-- Settles O59: a flipped bit changes its byte, and the recommended checksums are folds that lose nothing. -/
theorem recommendedChecksumsDetectBitFlips : Obligations.RecommendedChecksumsDetectBitFlips :=
  ⟨fun _ _ _ hlength hi hj => crc8Byte_lossless.foldl_modify_ne (xor_bit_ne hj) (hlength.symm ▸ hi) seed8,
    fun _ _ _ _ _ hi hj => crc16Byte_lossless.foldl_modify_ne (xor_bit_ne hj) hi seed16⟩

end Sys2Proof.Machine
end

section
/-! The frame scanner (41_scanner R188 to R200): for each outcome the one condition under which `ScanCore` gives it,
and how the condition fares when bytes follow. -/

namespace Sys2Proof.Machine

section Outcomes

variable {ck : CkChoice} {t : List Byte} {off : Nat}

/-- When an outcome is the outcome of `t` (41_scanner R188), said without the order of the steps; `scanCore_eq_iff`
ties it to `scanCore`. -/
def Scan.IsOutcome (ck : CkChoice) (t : List Byte) : Scan → Prop
  | .noSof => ∀ b ∈ t, b ≠ marker
  | .needMore missing off => firstMarkerAt t off ∧
      ((t.length - off < 4 ∧ missing = 4 - (t.length - off)) ∨
        (4 ≤ t.length - off ∧ hdrOk ck t off = true ∧ 13 ≤ declaredLen t off ∧ t.length - off < declaredLen t off ∧
          missing = declaredLen t off - (t.length - off)))
  | .badHcrc consumed => ∃ off, firstMarkerAt t off ∧ 4 ≤ t.length - off ∧ hdrOk ck t off = false ∧ consumed = off + 3
  | .badPcrc consumed => ∃ off, firstMarkerAt t off ∧ 4 ≤ t.length - off ∧ hdrOk ck t off = true ∧
      (declaredLen t off < 13 ∨ ∃ len, holdsFrame t off len ∧ pktOk ck t off len = false) ∧ consumed = off + 3
  | .ok len consumed => ∃ off, holdsFrame t off len ∧ hdrOk ck t off = true ∧ pktOk ck t off len = true ∧
      consumed = off + len

/-- A declared length of at least 13 that does not go past the end is a frame. -/
theorem holdsFrame_of_le (hmark : firstMarkerAt t off) (hmin : 13 ≤ declaredLen t off)
    (hmax : declaredLen t off ≤ t.length - off) : holdsFrame t off (declaredLen t off) :=
  ⟨hmark, rfl, hmin, declaredLen_le t off, by omega⟩

theorem scanCore_isOutcome (ck : CkChoice) (t : List Byte) : (scanCore ck t).IsOutcome ck t := by
  rcases scanCore_cases ck t with ⟨hm, hs⟩ | ⟨off, hm, hcases⟩
  · exact hs ▸ markerIndex_none.mp hm
  · have hmark := markerIndex_some.mp hm
    rcases hcases with ⟨hshort, hs⟩ | ⟨hprobe, hhdr, hs⟩ | ⟨hprobe, hhdr, hsmall, hs⟩ |
      ⟨hprobe, hhdr, hmin, hlong, hs⟩ | ⟨hhdr, hmin, hmax, hpkt, hs⟩ | ⟨hhdr, hmin, hmax, hpkt, hs⟩
    all_goals rw [hs]
    · exact ⟨hmark, .inl ⟨hshort, rfl⟩⟩
    · exact ⟨off, hmark, hprobe, hhdr, rfl⟩
    · exact ⟨off, hmark, hprobe, hhdr, .inl hsmall, rfl⟩
    · exact ⟨hmark, .inr ⟨hprobe, hhdr, hmin, hlong, rfl⟩⟩
    · exact ⟨off, hmark, by omega, hhdr, .inr ⟨_, holdsFrame_of_le hmark hmin hmax, hpkt⟩, rfl⟩
    · exact ⟨off, holdsFrame_of_le hmark hmin hmax, hhdr, hpkt, rfl⟩

/-- The steps behind a first marker, with the numbers of 00_scope R5 written out. -/
theorem scanCore_of_firstMarkerAt (hmark : firstMarkerAt t off) : scanCore ck t =
    if t.length - off < 4 then .needMore (4 - (t.length - off)) off
    else if ¬ hdrOk ck t off then .badHcrc (off + 3)
    else if declaredLen t off < 13 then .badPcrc (off + 3)
    else if t.length - off < declaredLen t off then .needMore (declaredLen t off - (t.length - off)) off
    else if ¬ pktOk ck t off (declaredLen t off) then .badPcrc (off + 3)
    else .ok (declaredLen t off) (off + declaredLen t off) := by
  rw [scanCore, markerIndex_some.mpr hmark]
  rfl

theorem scanCore_eq_of_isOutcome {r : Scan} (h : r.IsOutcome ck t) : scanCore ck t = r := by
  cases r with
  | noSof => rw [scanCore, markerIndex_none.mpr h]
  | needMore missing off =>
    obtain ⟨hmark, ⟨hshort, rfl⟩ | ⟨hprobe, hhdr, hmin, hlong, rfl⟩⟩ := h
    · rw [scanCore_of_firstMarkerAt hmark, if_pos hshort]
    · simp [scanCore_of_firstMarkerAt hmark, hprobe.not_gt, hhdr, hmin.not_gt, hlong]
  | badHcrc consumed =>
    obtain ⟨off, hmark, hprobe, hhdr, rfl⟩ := h
    simp [scanCore_of_firstMarkerAt hmark, hprobe.not_gt, hhdr]
  | badPcrc consumed =>
    obtain ⟨off, hmark, hprobe, hhdr, hsmall | ⟨len, ⟨-, rfl, hmin, -, hmax⟩, hpkt⟩, rfl⟩ := h
    · simp [scanCore_of_firstMarkerAt hmark, hprobe.not_gt, hhdr, hsmall]
    · have hmax : declaredLen t off ≤ t.length - off := by omega
      simp [scanCore_of_firstMarkerAt hmark, hprobe.not_gt, hhdr, hmin.not_gt, hmax.not_gt, hpkt]
  | ok len consumed =>
    obtain ⟨off, ⟨hmark, rfl, hmin, -, hmax⟩, hhdr, hpkt, rfl⟩ := h
    exact scanCore_eq_ok hmark hhdr hmin (by omega) hpkt

theorem scanCore_eq_iff {r : Scan} : scanCore ck t = r ↔ r.IsOutcome ck t :=
  ⟨fun h => h ▸ scanCore_isOutcome ck t, scanCore_eq_of_isOutcome⟩

end Outcomes

/-! The two checks and the length, in the words of 41_scanner R182, R183 and 30_encoding R92. -/

theorem take_three : ∀ {d : List Byte}, 3 ≤ d.length → d.take 3 = [byteAt d 0, byteAt d 1, byteAt d 2]
  | _ :: _ :: _ :: _, _ => rfl

theorem hdrOk_iff {ck : CkChoice} {t : List Byte} {off : Nat} : hdrOk ck t off = true ↔
    ck8 ck seed8 (slice t off (off + 3)) = byteAt t (off + 3) :=
  beq_iff_eq

theorem hdrOk_iff_bytes {ck : CkChoice} {t : List Byte} {off : Nat} (hprobe : 4 ≤ t.length - off) :
    hdrOk ck t off = true ↔
      ck8 ck seed8 [byteAt t off, byteAt t (off + 1), byteAt t (off + 2)] = byteAt t (off + 3) := by
  have hcovered : 3 ≤ (t.drop off).length := by
    rw [List.length_drop]
    omega
  rw [hdrOk_iff, slice, Nat.add_sub_cancel_left, take_three hcovered, byteAt_drop, byteAt_drop, byteAt_drop,
    Nat.add_zero]

theorem pktOk_iff {ck : CkChoice} {t : List Byte} {off len : Nat} : pktOk ck t off len = true ↔
    ck16 ck seed16 (slice t off (off + len - 2)) = le16 (byteAt t (off + len - 2)) (byteAt t (off + len - 1)) :=
  beq_iff_eq

theorem pktOk_iff_toNat {ck : CkChoice} {t : List Byte} {off len : Nat} : pktOk ck t off len = true ↔
    (ck16 ck seed16 ((t.drop off).take (len - 2))).toNat =
      (byteAt t (off + len - 2)).toNat + 256 * (byteAt t (off + len - 1)).toNat := by
  have hcovered : off + len - 2 - off = len - 2 := by omega
  rw [pktOk_iff, ← BitVec.toNat_inj, toNat_le16, slice, hcovered]

theorem declaredLen_eq (t : List Byte) (off : Nat) :
    declaredLen t off = (byteAt t (off + 1)).toNat + 256 * ((byteAt t (off + 2)).toNat % 4) :=
  toNat_lenField _ _

/-- Settles O32: the steps behind the marker, with each condition in the spec's words. -/
theorem scanCoreFollowsSteps : Obligations.ScanCoreFollowsSteps := by
  intro ck t
  refine ⟨fun h => scanCore_eq_of_isOutcome h, fun off len hmark hlen => ?_⟩
  obtain rfl : declaredLen t off = len := (declaredLen_eq t off).trans hlen.symm
  rw [scanCore_of_firstMarkerAt hmark]
  by_cases hshort : t.length - off < 4
  · rw [if_pos hshort, if_pos hshort]
  · simp only [hdrOk_iff_bytes (Nat.le_of_not_lt hshort), pktOk_iff_toNat]
    rfl

/-! The bounds of an outcome's counts (41_scanner R198). -/

/-- Settles O33: each kind's condition places its counts. -/
theorem scanOutcomeBounds : Obligations.ScanOutcomeBounds := by
  intro ck t
  have h := scanCore_isOutcome ck t
  generalize scanCore ck t = r at h ⊢
  cases r with
  | noSof => rfl
  | needMore missing off =>
    obtain ⟨hmark, hmissing⟩ := h
    have ⟨hoff, _, _⟩ := hmark
    have := declaredLen_le t off
    exact ⟨hoff, hmark, by omega, by omega⟩
  | badHcrc consumed =>
    obtain ⟨off, hmark, hprobe, -, rfl⟩ := h
    exact ⟨by omega, Nat.le_add_left .., off, hmark, rfl⟩
  | badPcrc consumed =>
    obtain ⟨off, hmark, hprobe, -, -, rfl⟩ := h
    exact ⟨by omega, Nat.le_add_left .., off, hmark, rfl⟩
  | ok len consumed =>
    obtain ⟨off, ⟨hmark, -, hmin, hmax, hfits⟩, -, -, rfl⟩ := h
    exact ⟨hmin, hmax, hfits, by omega, off, hmark, rfl⟩

/-! Bytes behind a sequence change none of what an outcome rests on (41_scanner R200). -/

section Append

variable {ck : CkChoice} {t : List Byte} {off len : Nat}

theorem firstMarkerAt_append_left (h : firstMarkerAt t off) (u : List Byte) : firstMarkerAt (t ++ u) off := by
  obtain ⟨hoff, hmark, hfirst⟩ := h
  refine ⟨by simp; omega, (byteAt_append_left hoff u).trans hmark, fun i hi => ?_⟩
  rw [byteAt_append_left (hi.trans hoff)]
  exact hfirst i hi

theorem holdsFrame_append_left (h : holdsFrame t off len) (u : List Byte) : holdsFrame (t ++ u) off len := by
  obtain ⟨hmark, hlen, hmin, hmax, hfits⟩ := h
  exact ⟨firstMarkerAt_append_left hmark u, (declaredLen_append_left (by omega) u).trans hlen, hmin, hmax,
    by simp; omega⟩

theorem pktOk_append_left (h : holdsFrame t off len) (u : List Byte) :
    pktOk ck (t ++ u) off len = pktOk ck t off len := by
  obtain ⟨-, -, hmin, -, hfits⟩ := h
  simp (disch := omega) only [pktOk, slice_append_left, byteAt_append_left]

theorem byteAt_mem {i : Nat} (h : i < t.length) : byteAt t i ∈ t := by
  simp [byteAt, h]

/-- A first marker behind a marker-free sequence is behind all of it. -/
theorem length_le_of_firstMarkerAt_append {u : List Byte} (h : ∀ b ∈ t, b ≠ marker)
    (hmark : firstMarkerAt (t ++ u) off) : t.length ≤ off := by
  by_contra hlt
  obtain ⟨-, hbyte, -⟩ := hmark
  rw [byteAt_append_left (Nat.lt_of_not_le hlt)] at hbyte
  exact h _ (byteAt_mem (Nat.lt_of_not_le hlt)) hbyte

/-- An outcome that asks for more than is appended asks for that much less. -/
theorem isOutcome_needMore_append {m : Nat} {u : List Byte} (h : (Scan.needMore m off).IsOutcome ck t)
    (hu : u.length < m) : (Scan.needMore (m - u.length) off).IsOutcome ck (t ++ u) := by
  obtain ⟨hmark, hmissing⟩ := h
  have ⟨hoff, _, _⟩ := hmark
  have hlength : (t ++ u).length - off = t.length - off + u.length := by
    rw [List.length_append]
    omega
  refine ⟨firstMarkerAt_append_left hmark u, ?_⟩
  rw [hlength]
  rcases hmissing with ⟨hshort, rfl⟩ | ⟨hprobe, hhdr, hmin, hlong, rfl⟩
  · exact .inl ⟨by omega, by omega⟩
  · have hlen : declaredLen (t ++ u) off = declaredLen t off := declaredLen_append_left (by omega) u
    rw [hlen, hdrOk_append_left ck (by omega)]
    exact .inr ⟨by omega, hhdr, hmin, by omega, by omega⟩

end Append

/-- Settles O34: the condition of each final outcome is on bytes that `t` has. -/
theorem scanPrefixStability : Obligations.ScanPrefixStability := by
  intro ck t u
  refine ⟨fun len consumed h => ?ok, fun consumed h => ?badHcrc, fun consumed h => ?badPcrc, fun m off h => ?needMore,
    fun h => ?noSof⟩
  all_goals rw [scanCore_eq_iff] at h
  case ok =>
    obtain ⟨off, hframe, hhdr, hpkt, rfl⟩ := h
    have ⟨_, _, hmin, _, hfits⟩ := hframe
    exact scanCore_eq_of_isOutcome ⟨off, holdsFrame_append_left hframe u,
      (hdrOk_append_left ck (by omega) u).trans hhdr, (pktOk_append_left hframe u).trans hpkt, rfl⟩
  case badHcrc =>
    obtain ⟨off, hmark, hprobe, hhdr, rfl⟩ := h
    exact scanCore_eq_of_isOutcome ⟨off, firstMarkerAt_append_left hmark u, by simp; omega,
      (hdrOk_append_left ck (by omega) u).trans hhdr, rfl⟩
  case badPcrc =>
    obtain ⟨off, hmark, hprobe, hhdr, hcause, rfl⟩ := h
    refine scanCore_eq_of_isOutcome ⟨off, firstMarkerAt_append_left hmark u, by simp; omega,
      (hdrOk_append_left ck (by omega) u).trans hhdr, ?_, rfl⟩
    rcases hcause with hsmall | ⟨len, hframe, hpkt⟩
    · exact .inl (by rwa [declaredLen_append_left (by omega)])
    · exact .inr ⟨len, holdsFrame_append_left hframe u, (pktOk_append_left hframe u).trans hpkt⟩
  case needMore =>
    exact ⟨fun hu => scanCore_eq_of_isOutcome (isOutcome_needMore_append h hu),
      fun _ => firstMarkerAt_append_left h.1 u⟩
  case noSof =>
    exact ⟨h, fun off hmark => length_le_of_firstMarkerAt_append h hmark⟩

end Sys2Proof.Machine
end

section
/-! What SCAN answers (41_scanner R196, R202), and a frame behind garbage with one bit flipped (41_scanner R201). -/

namespace Sys2Proof.Machine

theorem exec_scan {s : State} {base : Nat} {n : Half} (hlegal : base + n.toNat ≤ 2 ^ s.params.addrW) :
    exec (.scan base n) s = .next (s.answer .ok
      (.scan (scanCore s.params.ck (s.viewBytes base 0 n.toNat)).record
        ((scanCore s.params.ck (s.viewBytes base 0 n.toNat)).frameAddr base))) :=
  onLegalView_of_le hlegal _

theorem consumedField_of_lt {n : Nat} (h : n < 2 ^ 16) : consumedField n = n := if_pos h

/-- Settles O31: the bytes of a view are fewer than 2^16, so every count SCAN answers is in its field as it is. -/
theorem scanAnswersScanCore : Obligations.ScanAnswersScanCore := by
  refine ⟨fun s base n b hlegal hlength hbytes => ?_, fun r => ?_⟩
  · rw [exec_scan hlegal, ← eq_viewBytes hlength hbytes]
    have hfield : ∀ {consumed}, consumed ≤ b.length → consumedField consumed = consumed := fun hle =>
      consumedField_of_lt (by omega)
    have hbounds := scanOutcomeBounds s.params.ck b
    generalize scanCore s.params.ck b = r at hbounds ⊢
    cases r with
    | noSof => rfl
    | ok len consumed =>
      obtain ⟨-, -, hle, -⟩ := hbounds
      simp only [Scan.record, Scan.frameAddr, hfield hle]
    | needMore missing consumed | badHcrc consumed | badPcrc consumed =>
      obtain ⟨hlt, -⟩ := hbounds
      simp only [Scan.record, Scan.frameAddr, hfield (Nat.le_of_succ_le hlt)]
  · cases r with
    | noSof => rfl
    | ok | needMore | badHcrc | badPcrc => exact ⟨rfl, rfl, rfl, consumedField_of_lt⟩

/-! A frame found in a view is a valid frame at its own address. -/

theorem viewByte_add (s : State) (base off k : Nat) : s.viewByte (base + off) k = s.viewByte base (off + k) := by
  rw [State.viewByte, State.viewByte, Nat.add_assoc]

theorem slice_viewBytes_add (s : State) (base : Nat) {off j m : Nat} (h : off + j ≤ m) :
    slice (s.viewBytes base 0 m) off (off + j) = s.viewBytes (base + off) 0 j := by
  refine eq_viewBytes (by simp [slice]; omega) fun i hi => ?_
  have hi : i < j := by
    simp [slice] at hi
    omega
  calc byteAt (slice (s.viewBytes base 0 m) off (off + j)) i
      = byteAt (s.viewBytes base 0 m) (off + i) := by simp [slice, byteAt, hi]
    _ = s.viewByte base (off + i) := byteAt_viewBytes_zero s base (by omega)
    _ = s.viewByte (base + off) i := (viewByte_add s base off i).symm

theorem frameValid_of_holdsFrame {s : State} {base off len m : Nat} (hframe : holdsFrame (s.viewBytes base 0 m) off len)
    (hhdr : hdrOk s.params.ck (s.viewBytes base 0 m) off = true)
    (hpkt : pktOk s.params.ck (s.viewBytes base 0 m) off len = true) : s.frameValid (base + off) len = true := by
  obtain ⟨⟨-, hmark, -⟩, hlen, hmin, -, hfits⟩ := hframe
  rw [State.viewBytes_length, Nat.sub_zero] at hfits
  have hbyte : ∀ k, k < len → byteAt (s.viewBytes base 0 m) (off + k) = s.viewByte (base + off) k := fun k hk =>
    (byteAt_viewBytes_zero s base (by omega)).trans (viewByte_add s base off k).symm
  have hviewLen : s.viewLen (base + off) = len := by
    rw [← hlen, declaredLen, State.viewLen, hbyte 1 (by omega), hbyte 2 (by omega)]
  rw [hdrOk_iff, slice_viewBytes_add s base (by omega), hbyte 3 (by omega)] at hhdr
  rw [pktOk_iff, Nat.add_sub_assoc (by omega), Nat.add_sub_assoc (by omega), slice_viewBytes_add s base (by omega),
    hbyte _ (by omega), hbyte _ (by omega)] at hpkt
  refine frameValid_iff.mpr ⟨hmin, (hbyte 0 (by omega)).symm.trans hmark, hviewLen.le, hviewLen.symm ▸ hmin, hhdr, ?_⟩
  rw [State.trailerCk, Field.get, hviewLen]
  exact hpkt

/-- A SCAN that answers a frame has found one in a legal view. -/
theorem exec_scan_ok {s t : State} {base addr : Nat} {n : Half} {r : ScanRecord} (h : exec (.scan base n) s = .next t)
    (hresponse : t.response = some { status := .ok, payload := .scan r addr }) (hkind : r.kind = .ok) :
    base + n.toNat ≤ 2 ^ s.params.addrW ∧
      ∃ off, holdsFrame (s.viewBytes base 0 n.toNat) off r.frameLen ∧
        hdrOk s.params.ck (s.viewBytes base 0 n.toNat) off = true ∧
        pktOk s.params.ck (s.viewBytes base 0 n.toNat) off r.frameLen = true ∧ addr = base + off := by
  rcases onLegalView_next h with ⟨hlegal, ht⟩ | ⟨-, rfl⟩
  · refine ⟨hlegal, ?_⟩
    cases Host.Outcome.next.inj ht
    have houtcome := scanCore_isOutcome s.params.ck (s.viewBytes base 0 n.toNat)
    generalize scanCore s.params.ck (s.viewBytes base 0 n.toNat) = o at houtcome hresponse
    simp only [State.reply_response, Option.some.injEq, Response.mk.injEq, Payload.scan.injEq, true_and] at hresponse
    obtain ⟨rfl, rfl⟩ := hresponse
    cases o with
    | ok len consumed =>
      obtain ⟨off, hframe, hhdr, hpkt, rfl⟩ := houtcome
      exact ⟨off, hframe, hhdr, hpkt, by rw [Scan.frameAddr, Nat.add_sub_cancel]⟩
    | noSof | needMore | badHcrc | badPcrc => cases hkind
  · simp at hresponse

/-- Settles O36: what SCAN found is a valid frame, and validity depends only on the frame's bytes and the
parameters. -/
theorem scannedFramesAreValid : Obligations.ScannedFramesAreValid := by
  intro s t u base n r addr hexec hresponse hkind hparams hbytes
  obtain ⟨hlegal, off, hframe, hhdr, hpkt, rfl⟩ := exec_scan_ok hexec hresponse hkind
  have hvalid := frameValid_of_holdsFrame hframe hhdr hpkt
  obtain ⟨-, -, -, hmax, hfits⟩ := hframe
  rw [State.viewBytes_length, Nat.sub_zero] at hfits
  have hlen : (BitVec.ofNat 16 r.frameLen).toNat = r.frameLen := Nat.mod_eq_of_lt (by omega)
  have hsame : SameView (base + off) (BitVec.ofNat 16 r.frameLen) u s := ⟨hparams, by rwa [hlen]⟩
  rw [exec_fcValid (by rw [hparams, hlen]; omega), hsame.frameValid, hlen, hvalid]

/-! One flipped bit: which bytes and slices it changes, and that a check that held fails. -/

section Flip

variable {ck : CkChoice} {t : List Byte} {k len i j : Nat}

@[simp] theorem flipBit_length (t : List Byte) (i j : Nat) : (flipBit t i j).length = t.length := by
  simp [flipBit]

theorem byteAt_flipBit_of_ne (t : List Byte) (j : Nat) {m : Nat} (h : i ≠ m) :
    byteAt (flipBit t i j) m = byteAt t m := by
  simp [byteAt, flipBit, h]

theorem byteAt_flipBit_self_ne (hi : i < t.length) (hj : j < 8) : byteAt (flipBit t i j) i ≠ byteAt t i := by
  simpa [byteAt, flipBit, hi] using xor_bit_ne hj t[i]

theorem slice_flipBit_of_le (t : List Byte) (k j : Nat) {m : Nat} (h : m ≤ i) :
    slice (flipBit t i j) k m = slice t k m := by
  apply List.ext_getElem?
  intro n
  by_cases hn : n < m - k
  · have hne : i ≠ k + n := by omega
    simp [slice, flipBit, hn, hne]
  · simp [slice, hn]

theorem firstMarkerAt_flipBit (h : firstMarkerAt t k) (hi : k < i) (j : Nat) : firstMarkerAt (flipBit t i j) k := by
  obtain ⟨hk, hmark, hfirst⟩ := h
  refine ⟨by simpa using hk, (byteAt_flipBit_of_ne t j hi.ne').trans hmark, fun m hm => ?_⟩
  rw [byteAt_flipBit_of_ne t j (by omega)]
  exact hfirst m hm

theorem not_firstMarkerAt_flipBit_self (h : firstMarkerAt t k) (hj : j < 8) : ¬ firstMarkerAt (flipBit t k j) k := by
  obtain ⟨hk, hmark, -⟩ := h
  rintro ⟨-, hmark', -⟩
  exact byteAt_flipBit_self_ne hk hj (hmark'.trans hmark.symm)

/-- A flip of a header byte behind the marker: the checksum and the byte it is compared with no longer agree. -/
theorem hdrOk_flipBit (hhdr : hdrOk ck t k = true) (hj : j < 8) (hi : i ≤ k + 3) (hlength : k + 3 < t.length)
    (hck : i < k + 3 → ck8 ck seed8 (slice (flipBit t i j) k (k + 3)) ≠ ck8 ck seed8 (slice t k (k + 3))) :
    hdrOk ck (flipBit t i j) k = false := by
  rw [hdrOk_iff] at hhdr
  rw [Bool.eq_false_iff, ne_eq, hdrOk_iff]
  rcases hi.lt_or_eq with hlt | rfl
  · rw [byteAt_flipBit_of_ne t j hlt.ne, ← hhdr]
    exact hck hlt
  · rw [slice_flipBit_of_le t k j le_rfl, hhdr]
    exact (byteAt_flipBit_self_ne hlength hj).symm

theorem le16_inj {a b c d : Byte} : le16 a b = le16 c d ↔ a = c ∧ b = d := by
  rw [← BitVec.toNat_inj, ← BitVec.toNat_inj, ← BitVec.toNat_inj, toNat_le16, toNat_le16]
  omega

/-- A flip of a frame's byte that leaves its length as it is: the same for the trailing checksum. -/
theorem pktOk_flipBit (hpkt : pktOk ck t k len = true) (hj : j < 8) (hi : i < k + len) (hlength : k + len ≤ t.length)
    (hck : i < k + len - 2 →
      ck16 ck seed16 (slice (flipBit t i j) k (k + len - 2)) ≠ ck16 ck seed16 (slice t k (k + len - 2))) :
    pktOk ck (flipBit t i j) k len = false := by
  rw [pktOk_iff] at hpkt
  rw [Bool.eq_false_iff, ne_eq, pktOk_iff]
  by_cases hlt : i < k + len - 2
  · rw [byteAt_flipBit_of_ne t j (by omega), byteAt_flipBit_of_ne t j (by omega), ← hpkt]
    exact hck hlt
  · rw [slice_flipBit_of_le t k j (by omega), hpkt, le16_inj]
    rintro ⟨hlo, hhi⟩
    have hflip := byteAt_flipBit_self_ne (t := t) (i := i) (by omega) hj
    obtain rfl | rfl : i = k + len - 2 ∨ i = k + len - 1 := by omega
    · exact hflip hlo.symm
    · exact hflip hhi.symm

theorem holdsFrame_flipBit (h : holdsFrame t k len) (hi : k + 3 ≤ i) (j : Nat) : holdsFrame (flipBit t i j) k len := by
  obtain ⟨hmark, hlen, hmin, hmax, hfits⟩ := h
  refine ⟨firstMarkerAt_flipBit hmark (by omega) j, ?_, hmin, hmax, by simpa using hfits⟩
  rw [declaredLen, byteAt_flipBit_of_ne t j (by omega), byteAt_flipBit_of_ne t j (by omega)]
  exact hlen

theorem hdrOk_flipBit_of_lt (hi : k + 3 < i) (j : Nat) : hdrOk ck (flipBit t i j) k = hdrOk ck t k := by
  rw [hdrOk, slice_flipBit_of_le t k j hi.le, byteAt_flipBit_of_ne t j hi.ne', hdrOk]

/-- A frame at the first marker is the outcome exactly when both checks hold. -/
theorem scanCore_eq_ok_iff_of_holdsFrame (h : holdsFrame t k len) :
    scanCore ck t = .ok len (k + len) ↔ hdrOk ck t k = true ∧ pktOk ck t k len = true := by
  rw [scanCore_eq_iff]
  constructor
  · rintro ⟨off, -, hhdr, hpkt, hconsumed⟩
    obtain rfl : k = off := Nat.add_right_cancel hconsumed
    exact ⟨hhdr, hpkt⟩
  · rintro ⟨hhdr, hpkt⟩
    exact ⟨k, h, hhdr, hpkt, rfl⟩

end Flip

/-- Settles O35: the flipped bit is in the header, where its check fails, or behind it, where the header and the length
stay and the other check fails. -/
theorem scanFindsEmbeddedFrame : Obligations.ScanFindsEmbeddedFrame := by
  intro ck t k len
  refine ⟨fun hframe => ⟨scanCore_eq_ok_iff_of_holdsFrame hframe, fun hhdr hpkt i j hj => ?_⟩, ?short⟩
  case short =>
    exact fun hmark hprobe hhdr hmin hlong =>
      scanCore_eq_of_isOutcome ⟨hmark, .inr ⟨hprobe, hhdr, hmin, hlong, rfl⟩⟩
  have ⟨hmark, _, hmin, _, hfits⟩ := hframe
  have hprobe : ∀ i, 4 ≤ (flipBit t i j).length - k := fun i => by
    rw [flipBit_length]
    omega
  refine ⟨fun hlo hhi hck => ?header, fun hlo hhi hck => ?body, ?marker⟩
  case header =>
    exact scanCore_eq_of_isOutcome ⟨k, firstMarkerAt_flipBit hmark hlo j, hprobe i,
      hdrOk_flipBit hhdr hj hhi (by omega) hck, rfl⟩
  case body =>
    exact scanCore_eq_of_isOutcome ⟨k, firstMarkerAt_flipBit hmark (by omega) j, hprobe i,
      (hdrOk_flipBit_of_lt hlo j).trans hhdr,
      .inr ⟨len, holdsFrame_flipBit hframe (by omega) j, pktOk_flipBit hpkt hj hhi hfits hck⟩, rfl⟩
  case marker =>
    rintro rfl
    exact not_firstMarkerAt_flipBit_self hmark hj

end Sys2Proof.Machine
end

section
/-! RA.PUSH, RA.FLUSH and RA.STATUS as steps of the block: what each answers and what it leaves unchanged
(42_reassembler R221 to R226, R233, R234). -/

namespace Sys2Proof.Machine

/-- Settles O39: the two size checks, in the order of R222 and R223. -/
theorem pushFaultsOnSizeAndCapacity : Obligations.PushFaultsOnSizeAndCapacity :=
  fun _ _ _ data => ⟨fun hfrag => exec_raPush_of_fragMax_lt hfrag data,
    fun hfrag hcap => exec_raPush_of_accCap_lt hfrag hcap data⟩

theorem exec_raFlush (c : Nat) (s : State) :
    exec (.raFlush c) s = .next ((s.setChan c Chan.idle).reply .empty) := rfl

theorem exec_raStatus (c : Nat) (s : State) :
    exec (.raStatus c) s = .next (s.answer .ok
      (.status (s.getChan c).buf.length (s.getChan c).hint.isSome (hintField (s.getChan c).hint))) := rfl

/-- The frame of an answer that writes one channel. -/
theorem getChan_setChan_reply_of_ne (s : State) {c d : Nat} (hd : d ≠ c) (ch : Chan) (p : Payload) :
    ((s.setChan c ch).reply p).getChan d = s.getChan d := by
  rw [State.getChan_reply, State.getChan_setChan, if_neg hd]

theorem getChan_setChan_reply_self (s : State) (c : Nat) (ch : Chan) (p : Payload) :
    ((s.setChan c ch).reply p).getChan c = ch := by
  rw [State.getChan_reply, State.getChan_setChan_self]

/-- Settles O42: the flush writes the idle state to its channel. -/
theorem flushEmptiesItsChannel : Obligations.FlushEmptiesItsChannel := fun s c =>
  ⟨_, exec_raFlush c s, rfl, getChan_setChan_reply_self s c _ _, fun _ hd => getChan_setChan_reply_of_ne s hd _ _⟩

/-- Settles O43: the two cases of the hint. -/
theorem statusReportsChannel : Obligations.StatusReportsChannel := by
  intro s c
  rw [exec_raStatus]
  refine ⟨fun hnone => ?_, fun h hsome => ?_⟩
  · rw [hnone]
    rfl
  · rw [hsome]
    rfl

/-- A lane that is not listed carries 0x00, which is what `byteAt` gives past the end (log 5). -/
theorem byteAt_fragment (data : List Byte) {k : Half} {i : Nat} (hi : i < k.toNat) :
    byteAt (fragment data k) i = byteAt data i := by
  rcases lt_or_ge i data.length with hlist | hpast
  · simp [fragment, byteAt, hi, List.getElem?_append_left hlist, hlist]
  · have hpad : i - data.length < k.toNat - data.length := by omega
    simp [fragment, byteAt, hi, List.getElem?_append_right hpast, hpast, hpad]

/-- The fragment is the only list of `k` bytes that agrees with the data lanes. -/
theorem eq_fragment {data d : List Byte} {k : Half} (hlength : d.length = k.toNat)
    (hbytes : ∀ i, i < k.toNat → byteAt d i = byteAt data i) : d = fragment data k := by
  apply List.ext_getElem (by simp [hlength])
  intro i hi hi'
  calc d[i] = byteAt d i := (List.getD_eq_getElem d 0 hi).symm
    _ = byteAt (fragment data k) i := by rw [hbytes i (hlength ▸ hi), byteAt_fragment data (hlength ▸ hi)]
    _ = (fragment data k)[i] := List.getD_eq_getElem _ 0 hi'

theorem pushFragment_of_lt {ck : CkChoice} {c h : Nat} {ch : Chan} {d : List Byte} (hhint : ch.hint = some h)
    (hlt : (ch.buf ++ d).length < h) : pushFragment ck c ch d =
      { chan := { buf := ch.buf ++ d, hint := ch.hint }, frames := [], trace := [] } := by
  rcases pushFragment_cases ck c ch d with ⟨-, hp⟩ | ⟨hle, -⟩
  · exact hp
  · exact absurd hlt (hle h hhint).not_gt

theorem pushFragment_of_le {ck : CkChoice} {c : Nat} {ch : Chan} {d : List Byte}
    (hle : ∀ h, ch.hint = some h → h ≤ (ch.buf ++ d).length) : pushFragment ck c ch d = drain ck c (ch.buf ++ d) := by
  rcases pushFragment_cases ck c ch d with ⟨⟨h, hhint, hlt⟩, -⟩ | ⟨-, hp⟩
  · exact absurd hlt (hle h hhint).not_gt
  · exact hp

/-- Settles O37: the push that passes both checks writes what `pushFragment` computes, with the gate shut and without. -/
theorem pushAppendsAndScans : Obligations.PushAppendsAndScans := by
  intro s c k data d hfrag hcap hlength hbytes
  obtain rfl := eq_fragment hlength hbytes
  have hnew : ((s.getChan c).buf ++ fragment data k).length = (s.getChan c).buf.length + k.toNat := by
    rw [List.length_append, fragment_length]
  refine ⟨_, exec_raPush_of_le hfrag hcap data, rfl, fun _ hd => getChan_setChan_reply_of_ne s hd _ _, ?shut, ?opened⟩
  case shut =>
    rintro ⟨h, hhint, hlt⟩
    rw [pushFragment_of_lt hhint (hnew.trans_lt hlt)]
    exact ⟨getChan_setChan_reply_self s c _ _, rfl⟩
  case opened =>
    intro hle
    rw [pushFragment_of_le fun h hhint => (hle h hhint).trans_eq hnew.symm]
    exact ⟨getChan_setChan_reply_self s c _ _, rfl⟩

end Sys2Proof.Machine
end

section
/-! The recovery loop (42_reassembler R226 to R231, R236): its recursion equation without fuel, outcome by outcome, and
the induction over its passes. -/

namespace Sys2Proof.Machine

/-- The scan of `buf` fails a check, and the loop drops `consumed` bytes and goes on (R230). -/
abbrev Resyncs (ck : CkChoice) (buf : List Byte) (consumed : Nat) : Prop :=
  scanCore ck buf = .badHcrc consumed ∨ scanCore ck buf = .badPcrc consumed

/-- The frame an outcome OK(len, consumed) takes from the buffer (R227). -/
def frameOf (c : Nat) (buf : List Byte) (len consumed : Nat) : Frame where
  chan := c
  len := len
  bytes := slice buf (consumed - len) consumed

@[simp] theorem PushResult.traced_frames (r : PushResult) (o : Scan) : (r.traced o).frames = r.frames := rfl
@[simp] theorem PushResult.traced_trace (r : PushResult) (o : Scan) : (r.traced o).trace = o.record :: r.trace := rfl
@[simp] theorem PushResult.yielding_frames (r : PushResult) (f : Frame) :
    (r.yielding f).frames = f :: r.frames := rfl
@[simp] theorem PushResult.yielding_trace (r : PushResult) (f : Frame) : (r.yielding f).trace = r.trace := rfl

section Passes

variable {ck : CkChoice} {c : Nat} {buf : List Byte} {len missing consumed : Nat}

/-! What a pass drops. -/

theorem bounds_of_scanCore_ok (h : scanCore ck buf = .ok len consumed) :
    13 ≤ len ∧ len ≤ 1023 ∧ len ≤ consumed ∧ consumed ≤ buf.length := by
  obtain ⟨off, ⟨-, -, hmin, hmax, hfits⟩, -, -, rfl⟩ := scanCore_eq_iff.mp h
  exact ⟨hmin, hmax, Nat.le_add_left .., hfits⟩

theorem bounds_of_resyncs (h : Resyncs ck buf consumed) : 3 ≤ consumed ∧ consumed < buf.length := by
  have hbounds := scanOutcomeBounds ck buf
  rcases h with h | h
  all_goals
    rw [h] at hbounds
    obtain ⟨hmax, hmin, -⟩ := hbounds
    exact ⟨hmin, hmax⟩

/-- Induction over the passes of the loop: OK and a failed check lead to what is left of the buffer, NEED_MORE and
NO_SOF end it. -/
theorem passes_induction {motive : List Byte → Prop}
    (ok : ∀ buf len consumed, scanCore ck buf = .ok len consumed → motive (buf.drop consumed) → motive buf)
    (resync : ∀ buf consumed, Resyncs ck buf consumed → motive (buf.drop consumed) → motive buf)
    (needMore : ∀ buf missing consumed, scanCore ck buf = .needMore missing consumed → motive buf)
    (noSof : ∀ buf, scanCore ck buf = .noSof → motive buf) (buf : List Byte) : motive buf := by
  induction hn : buf.length using Nat.strong_induction_on generalizing buf with
  | _ n ih =>
    have hrest : ∀ {consumed}, (buf.drop consumed).length < buf.length → motive (buf.drop consumed) := fun hlt =>
      ih _ (hn ▸ hlt) _ rfl
    cases hs : scanCore ck buf with
    | ok len consumed => exact ok buf len consumed hs (hrest (length_drop_lt_of_scanCore (.inl ⟨len, hs⟩)))
    | noSof => exact noSof buf hs
    | needMore missing consumed => exact needMore buf missing consumed hs
    | badHcrc consumed => exact resync buf consumed (.inl hs) (hrest (length_drop_lt_of_scanCore (.inr (.inl hs))))
    | badPcrc consumed => exact resync buf consumed (.inr hs) (hrest (length_drop_lt_of_scanCore (.inr (.inr hs))))

/-- Fuel beyond the length of the buffer does not matter (R236; log 15). -/
theorem drainLoop_eq_drain {fuel : Nat} (h : buf.length < fuel) : drainLoop ck c fuel buf = drain ck c buf := by
  have hsame : ∀ {fuel fuel'}, buf.length < fuel → buf.length < fuel' →
      drainLoop ck c fuel buf = drainLoop ck c fuel' buf := by
    clear h
    intro fuel fuel' h h'
    induction fuel generalizing fuel' buf with
    | zero => omega
    | succ fuel ih =>
      obtain ⟨fuel', rfl⟩ := Nat.exists_eq_succ_of_ne_zero (Nat.ne_zero_of_lt h')
      have hrest : ∀ {consumed}, (buf.drop consumed).length < buf.length →
          drainLoop ck c fuel (buf.drop consumed) = drainLoop ck c fuel' (buf.drop consumed) := fun hlt =>
        ih (by omega) (by omega)
      rw [drainLoop, drainLoop]
      cases hs : scanCore ck buf with
      | ok len consumed => simp only [hrest (length_drop_lt_of_scanCore (.inl ⟨len, hs⟩))]
      | noSof | needMore missing consumed => rfl
      | badHcrc consumed => simp only [hrest (length_drop_lt_of_scanCore (.inr (.inl hs)))]
      | badPcrc consumed => simp only [hrest (length_drop_lt_of_scanCore (.inr (.inr hs)))]
  exact hsame h (Nat.lt_succ_self _)

/-! One pass, outcome by outcome. -/

theorem drain_of_ok (h : scanCore ck buf = .ok len consumed) : drain ck c buf =
    ((drain ck c (buf.drop consumed)).yielding (frameOf c buf len consumed)).traced (.ok len consumed) := by
  rw [drain, drainLoop, h, ← drainLoop_eq_drain (length_drop_lt_of_scanCore (.inl ⟨len, h⟩))]
  rfl

theorem drain_of_resyncs (h : Resyncs ck buf consumed) : drain ck c buf =
    (drain ck c (buf.drop consumed)).traced (scanCore ck buf) := by
  rw [drain, drainLoop, ← drainLoop_eq_drain (length_drop_lt_of_scanCore (.inr h))]
  rcases h with h | h
  all_goals rw [h]

theorem drain_of_needMore (h : scanCore ck buf = .needMore missing consumed) : drain ck c buf =
    { chan := { buf := buf.drop consumed, hint := some (missing + (buf.length - consumed)) }
      frames := []
      trace := [(Scan.needMore missing consumed).record] } := by
  rw [drain, drainLoop, h, ← List.length_drop]

theorem drain_of_noSof (h : scanCore ck buf = .noSof) : drain ck c buf =
    { chan := Chan.idle, frames := [], trace := [Scan.noSof.record] } := by
  rw [drain, drainLoop, h]
  rfl

end Passes

/-- Settles O38: the equation of each outcome; what NEED_MORE asks for fills the header probe or the declared frame. -/
theorem drainFollowsRecoverySteps : Obligations.DrainFollowsRecoverySteps := by
  intro ck c buf
  refine ⟨?_, fun missing consumed hs => ?_⟩
  · cases hs : scanCore ck buf with
    | ok len consumed => exact drain_of_ok hs
    | noSof => exact drain_of_noSof hs
    | needMore missing consumed => exact drain_of_needMore hs
    | badHcrc consumed => exact (drain_of_resyncs (.inl hs)).trans (congrArg _ hs)
    | badPcrc consumed => exact (drain_of_resyncs (.inr hs)).trans (congrArg _ hs)
  · obtain ⟨-, ⟨hshort, rfl⟩ | ⟨hprobe, -, -, hlong, rfl⟩⟩ := scanCore_eq_needMore hs
    · exact .inl (by omega)
    · exact .inr ⟨hprobe, by omega⟩

theorem drain_trace_length_le (ck : CkChoice) (c : Nat) (buf : List Byte) :
    (drain ck c buf).trace.length ≤ buf.length / 3 + 1 := by
  induction buf using passes_induction (ck := ck) with
  | ok buf len consumed hs ih =>
    have := bounds_of_scanCore_ok hs
    rw [List.length_drop] at ih
    simp only [drain_of_ok hs, PushResult.traced_trace, PushResult.yielding_trace, List.length_cons]
    omega
  | resync buf consumed hs ih =>
    have := bounds_of_resyncs hs
    rw [List.length_drop] at ih
    simp only [drain_of_resyncs hs, PushResult.traced_trace, List.length_cons]
    omega
  | needMore buf missing consumed hs => simp [drain_of_needMore hs]
  | noSof buf hs => simp [drain_of_noSof hs]

theorem drain_frames_length_le (ck : CkChoice) (c : Nat) (buf : List Byte) :
    (drain ck c buf).frames.length ≤ buf.length / 13 := by
  induction buf using passes_induction (ck := ck) with
  | ok buf len consumed hs ih =>
    have := bounds_of_scanCore_ok hs
    rw [List.length_drop] at ih
    simp only [drain_of_ok hs, PushResult.traced_frames, PushResult.yielding_frames, List.length_cons]
    omega
  | resync buf consumed hs ih =>
    rw [List.length_drop] at ih
    rw [drain_of_resyncs hs, PushResult.traced_frames]
    omega
  | needMore buf missing consumed hs => simp [drain_of_needMore hs]
  | noSof buf hs => simp [drain_of_noSof hs]

/-- Settles O40: a pass that goes on drops at least 3 bytes, and at least 13 when it delivers a frame. -/
theorem pushScanBounds : Obligations.PushScanBounds := by
  intro ck c buf
  refine ⟨drain_trace_length_le ck c buf, drain_frames_length_le ck c buf, ?_⟩
  rintro consumed (⟨len, hs⟩ | hs)
  · obtain ⟨hmin, -, hle, hmax⟩ := bounds_of_scanCore_ok hs
    exact ⟨by omega, hmax⟩
  · obtain ⟨hmin, hlt⟩ := bounds_of_resyncs hs
    exact ⟨hmin, hlt.le⟩

/-! A delivered frame, cut out of the buffer, is a frame by itself. -/

theorem pktOk_drop (ck : CkChoice) (t : List Byte) (off : Nat) {len : Nat} (hlen : 2 ≤ len) :
    pktOk ck (t.drop off) 0 len = pktOk ck t off len := by
  simp only [pktOk, slice_drop, byteAt_drop, Nat.zero_add, Nat.add_zero, Nat.add_sub_assoc hlen,
    Nat.add_sub_assoc (Nat.le_of_succ_le hlen)]

/-- The bytes of a valid frame scan to that frame, whatever stands around them. -/
theorem scanCore_slice_of_ok {ck : CkChoice} {buf : List Byte} {len consumed : Nat}
    (h : scanCore ck buf = .ok len consumed) : scanCore ck (slice buf (consumed - len) consumed) = .ok len len := by
  obtain ⟨off, ⟨⟨-, hmark, -⟩, hlen, hmin, hmax, hfits⟩, hhdr, hpkt, rfl⟩ := scanCore_eq_iff.mp h
  rw [Nat.add_sub_cancel, slice, Nat.add_sub_cancel_left]
  have hlength : ((buf.drop off).take len).length = len := by simp; omega
  have hsplit : (buf.drop off).take len ++ (buf.drop off).drop len = buf.drop off := List.take_append_drop ..
  have hframe : holdsFrame ((buf.drop off).take len) 0 len := by
    refine ⟨⟨by omega, ?_, nofun⟩, ?_, hmin, hmax, by omega⟩
    · rw [← byteAt_append_left (by omega), hsplit, byteAt_drop, Nat.add_zero, hmark]
    · rw [← declaredLen_append_left (by omega), hsplit, declaredLen_drop, hlen]
  refine scanCore_eq_of_isOutcome ⟨0, hframe, ?_, ?_, (Nat.zero_add len).symm⟩
  · rw [← hdrOk_append_left ck (by omega), hsplit, hdrOk_drop, hhdr]
  · rw [← pktOk_append_left hframe, hsplit, pktOk_drop ck buf off (by omega), hpkt]

/-- A whole valid frame of channel `c` (R231). -/
def Frame.Delivered (ck : CkChoice) (c : Nat) (f : Frame) : Prop :=
  f.chan = c ∧ f.len = f.bytes.length ∧ 13 ≤ f.len ∧ f.len ≤ 1023 ∧ scanCore ck f.bytes = .ok f.len f.len

theorem frameOf_delivered {ck : CkChoice} {buf : List Byte} {len consumed : Nat} (c : Nat)
    (h : scanCore ck buf = .ok len consumed) : (frameOf c buf len consumed).Delivered ck c := by
  obtain ⟨hmin, hmax, hle, hfits⟩ := bounds_of_scanCore_ok h
  refine ⟨rfl, ?_, hmin, hmax, scanCore_slice_of_ok h⟩
  simp only [frameOf, slice, List.length_take, List.length_drop]
  omega

theorem drain_frames_delivered (ck : CkChoice) (c : Nat) (buf : List Byte) :
    ∀ f ∈ (drain ck c buf).frames, f.Delivered ck c := by
  induction buf using passes_induction (ck := ck) with
  | ok buf len consumed hs ih =>
    rw [drain_of_ok hs]
    exact List.forall_mem_cons.mpr ⟨frameOf_delivered c hs, ih⟩
  | resync buf consumed hs ih => rwa [drain_of_resyncs hs]
  | needMore buf missing consumed hs => simp [drain_of_needMore hs]
  | noSof buf hs => simp [drain_of_noSof hs]

/-- A frame's bytes, then bytes taken in order from behind it, are taken in order from the buffer. -/
theorem slice_append_sublist {t u : List Byte} (i : Nat) {j : Nat} (h : u.Sublist (t.drop j)) (hij : i ≤ j) :
    (slice t i j ++ u).Sublist t := by
  have hbehind : (t.drop i).drop (j - i) = t.drop j := by rw [List.drop_drop, Nat.add_sub_cancel' hij]
  calc (slice t i j ++ u).Sublist ((t.drop i).take (j - i) ++ (t.drop i).drop (j - i)) := by
        rw [hbehind]
        exact (List.Sublist.refl _).append h
    _ = t.drop i := List.take_append_drop ..
    List.Sublist _ t := List.drop_sublist i t

theorem drain_bytes_sublist (ck : CkChoice) (c : Nat) (buf : List Byte) :
    ((drain ck c buf).frames.map Frame.bytes).flatten.Sublist buf := by
  induction buf using passes_induction (ck := ck) with
  | ok buf len consumed hs ih =>
    rw [drain_of_ok hs]
    exact slice_append_sublist _ ih (Nat.sub_le ..)
  | resync buf consumed hs ih =>
    rw [drain_of_resyncs hs]
    exact ih.trans (List.drop_sublist _ _)
  | needMore buf missing consumed hs => simp [drain_of_needMore hs]
  | noSof buf hs => simp [drain_of_noSof hs]

/-- Settles O41: each OK outcome delivers a frame cut from in front of what the loop goes on with. -/
theorem deliveredFramesAreWholeAndInOrder : Obligations.DeliveredFramesAreWholeAndInOrder := fun ck c buf =>
  ⟨drain_frames_delivered ck c buf, drain_bytes_sublist ck c buf⟩

/-! How the loop ends (R244, R245). -/

/-- The last scan is NO_SOF with the channel IDLE, or NEED_MORE with the channel waiting. -/
def PushResult.EndsIdleOrWaiting (ck : CkChoice) (r : PushResult) : Prop :=
  ∃ last, r.trace.getLast? = some last ∧
    ((last.kind = .noSof ∧ r.chan.inPhase ck .idle) ∨
      (last.kind = .needMore ∧ (r.chan.inPhase ck .waitHdr ∨ ∃ len, r.chan.inPhase ck (.waitBody len))))

theorem PushResult.EndsIdleOrWaiting.traced {ck : CkChoice} {r : PushResult} (h : r.EndsIdleOrWaiting ck) (o : Scan) :
    (r.traced o).EndsIdleOrWaiting ck := by
  obtain ⟨last, hlast, hend⟩ := h
  exact ⟨last, by simp [List.getLast?_cons, hlast], hend⟩

/-- A settled channel with a hint waits. -/
theorem Chan.Settled.waits {ck : CkChoice} {ch : Chan} {h : Nat} (hch : ch.Settled ck) (hhint : ch.hint = some h) :
    ch.inPhase ck .waitHdr ∨ ∃ len, ch.inPhase ck (.waitBody len) := by
  obtain ⟨ph, hph⟩ := hch
  cases ph with
  | idle =>
    obtain ⟨-, hnone⟩ := hph
    cases hnone.symm.trans hhint
  | waitHdr => exact .inl hph
  | waitBody len => exact .inr ⟨len, hph⟩

/-- Settles O53: the loop ends at the outcomes NEED_MORE and NO_SOF only, and these set the channel. -/
theorem pushLoopEndsIdleOrWaiting : Obligations.PushLoopEndsIdleOrWaiting := by
  intro ck c buf
  show (drain ck c buf).EndsIdleOrWaiting ck
  induction buf using passes_induction (ck := ck) with
  | ok buf len consumed hs ih =>
    rw [drain_of_ok hs]
    exact PushResult.EndsIdleOrWaiting.traced ih _
  | resync buf consumed hs ih =>
    rw [drain_of_resyncs hs]
    exact ih.traced _
  | needMore buf missing consumed hs =>
    have hsettled := settled_of_scanCore_needMore hs
    rw [List.length_drop] at hsettled
    rw [drain_of_needMore hs]
    exact ⟨_, rfl, .inr ⟨rfl, hsettled.waits rfl⟩⟩
  | noSof buf hs =>
    rw [drain_of_noSof hs]
    exact ⟨_, rfl, .inl ⟨rfl, Chan.idle_inPhase ck⟩⟩

end Sys2Proof.Machine
end

section
/-! The states of a channel between operations (42_reassembler R237 to R239). -/

namespace Sys2Proof.Machine

section Phases

variable {ck : CkChoice} {ch : Chan} {ph ph' : ChanPhase} {h : Nat}

/-- The hint names the state: none in IDLE, 4 in WAIT_HDR, at least 13 in WAIT_BODY. -/
def ChanPhase.hint : ChanPhase → Option Nat
  | .idle => none
  | .waitHdr => some 4
  | .waitBody len => some len

theorem Chan.inPhase_hint (hph : ch.inPhase ck ph) : ch.hint = ph.hint := by
  cases ph with
  | idle =>
    obtain ⟨-, hhint⟩ := hph
    exact hhint
  | waitHdr =>
    obtain ⟨-, -, -, hhint⟩ := hph
    exact hhint
  | waitBody len =>
    obtain ⟨-, -, -, -, -, -, -, hhint⟩ := hph
    exact hhint

/-- A waiting channel holds the marker first, and fewer bytes than its hint. -/
theorem Chan.inPhase_waiting (hph : ch.inPhase ck ph) (hhint : ch.hint = some h) :
    byteAt ch.buf 0 = marker ∧ 1 ≤ ch.buf.length ∧ ch.buf.length < h := by
  have hname := (Chan.inPhase_hint hph).symm.trans hhint
  cases ph with
  | idle => cases hname
  | waitHdr =>
    cases hname
    obtain ⟨hmark, hpos, hmax, -⟩ := hph
    exact ⟨hmark, hpos, Nat.lt_succ_of_le hmax⟩
  | waitBody len =>
    cases hname
    obtain ⟨hmark, -, -, -, -, hprobe, hlt, -⟩ := hph
    exact ⟨hmark, by omega, hlt⟩

/-- A waiting body is at least a whole frame, so its hint is not that of WAIT_HDR. -/
theorem Chan.inPhase_unique (hph : ch.inPhase ck ph) (hph' : ch.inPhase ck ph') : ph' = ph := by
  have hname : ph'.hint = ph.hint := (Chan.inPhase_hint hph').symm.trans (Chan.inPhase_hint hph)
  have hbody : ∀ {len}, ch.inPhase ck (.waitBody len) → len ≠ 4 := fun hbody => by
    obtain ⟨-, -, -, hmin, -⟩ := hbody
    omega
  cases ph with
  | idle =>
    cases ph' with
    | idle => rfl
    | waitHdr | waitBody len => cases hname
  | waitHdr =>
    cases ph' with
    | idle => cases hname
    | waitHdr => rfl
    | waitBody len => exact absurd (Option.some.inj hname) (hbody hph')
  | waitBody len =>
    cases ph' with
    | idle => cases hname
    | waitHdr => exact absurd (Option.some.inj hname).symm (hbody hph)
    | waitBody len' => exact congrArg _ (Option.some.inj hname)

theorem Chan.inPhase_of_hint_none (hph : ch.inPhase ck ph) (hhint : ch.hint = none) : ch = Chan.idle := by
  have hname := (Chan.inPhase_hint hph).symm.trans hhint
  cases ph with
  | idle =>
    obtain ⟨hbuf, -⟩ := hph
    obtain ⟨buf, hint⟩ := ch
    cases hbuf
    cases hhint
    rfl
  | waitHdr | waitBody len => cases hname

end Phases

/-- Settles O49: the invariant holds after the step, and a channel's state is read off its hint. -/
theorem channelStatesAreExact : Obligations.ChannelStatesAreExact := by
  intro s t hinv hstep c
  obtain ⟨ph, hph⟩ := (stepKeepsInvariant s t hinv hstep).phases c
  refine ⟨⟨ph, hph, fun ph' hph' => Chan.inPhase_unique hph hph'⟩, fun hbuf => ?_, fun h hhint => ?_⟩
  · exact Option.ne_none_iff_exists'.mp fun hnone => hbuf (congrArg Chan.buf (Chan.inPhase_of_hint_none hph hnone))
  · obtain ⟨hmark, -, hlt⟩ := Chan.inPhase_waiting hph hhint
    exact ⟨hmark, hlt⟩

theorem fits_accCap_of_legal {p : Params} (hlegal : p.legal) {n k : Nat} (hn : n ≤ 1022) (hk : k ≤ p.fragMax) :
    n + k ≤ p.accCap := by
  obtain ⟨-, -, -, hcap⟩ := hlegal
  simp only [maxLen] at hcap
  omega

/-- Settles O50: a settled channel holds at most 1022 bytes, which leaves room for a fragment. -/
theorem bufferBoundAndNoOverflow : Obligations.BufferBoundAndNoOverflow := by
  intro s c hinv
  obtain ⟨hbuf, -⟩ := Chan.Settled.bounds (hinv.phases c)
  refine ⟨hbuf, fun k data => ⟨fun hfrag => ?_, fun hlegal t p hexec => ?_⟩⟩
  · rw [List.length_append, fragment_length]
    omega
  · rcases lt_or_ge s.params.fragMax k.toNat with hfrag | hfrag
    · cases (exec_raPush_of_fragMax_lt hfrag data).symm.trans hexec
      simp
    · cases (exec_raPush_of_le hfrag (fits_accCap_of_legal hlegal hbuf hfrag) data).symm.trans hexec
      simp

section Gate

variable {ck : CkChoice} {ch : Chan} {ph : ChanPhase} {h : Nat}

/-- The scan of a waiting channel asks for what its hint says is missing. -/
theorem scanCore_of_inPhase (hph : ch.inPhase ck ph) (hhint : ch.hint = some h) :
    scanCore ck ch.buf = .needMore (h - ch.buf.length) 0 := by
  obtain ⟨hmark, hpos, hlt⟩ := Chan.inPhase_waiting hph hhint
  refine scanCore_eq_of_isOutcome ⟨⟨hpos, hmark, nofun⟩, ?_⟩
  rw [Nat.sub_zero]
  have hname := (Chan.inPhase_hint hph).symm.trans hhint
  cases ph with
  | idle => cases hname
  | waitHdr =>
    cases hname
    exact .inl ⟨hlt, rfl⟩
  | waitBody len =>
    cases hname
    obtain ⟨-, hhdr, rfl, hmin, -, hprobe, -, -⟩ := hph
    exact .inr ⟨hprobe, hhdr, hmin, hlt, rfl⟩

/-- The loop over what a waiting channel holds leaves the channel as it is. -/
theorem drain_of_inPhase (c : Nat) (hph : ch.inPhase ck ph) (hhint : ch.hint = some h) :
    (drain ck c ch.buf).chan = ch ∧ (drain ck c ch.buf).frames = [] := by
  obtain ⟨-, -, hlt⟩ := Chan.inPhase_waiting hph hhint
  rw [drain_of_needMore (scanCore_of_inPhase hph hhint), List.drop_zero, Nat.sub_zero,
    Nat.sub_add_cancel hlt.le, ← hhint]
  exact ⟨rfl, rfl⟩

end Gate

/-- Settles O51: the channel with the fragment held waits for the same hint, and the scan and the loop are those of a
waiting channel. -/
theorem hintGateChangesOnlyTheTrace : Obligations.HintGateChangesOnlyTheTrace := by
  intro ck c ch ph d h hph hhint hlt
  have hheld := Chan.inPhase_append hph hhint hlt
  obtain ⟨hchan, hframes⟩ := drain_of_inPhase c hheld hhint
  rw [pushFragment_of_lt hhint hlt]
  exact ⟨scanCore_of_inPhase hheld hhint, hchan.symm, hframes.symm⟩

end Sys2Proof.Machine
end

section
/-! Chunking (42_reassembler R240): what the loop delivers does not depend on where the stream is cut. -/

namespace Sys2Proof.Machine

/-! A scan behind bytes without a marker (R189): the same outcome, that much further on. -/

/-- The outcome with its `consumed` count moved on by `n` bytes. -/
def Scan.advance (n : Nat) : Scan → Scan
  | .ok frameLen consumed => .ok frameLen (n + consumed)
  | .noSof => .noSof
  | .needMore missing consumed => .needMore missing (n + consumed)
  | .badHcrc consumed => .badHcrc (n + consumed)
  | .badPcrc consumed => .badPcrc (n + consumed)

theorem drop_length_add_append (g u : List Byte) (n : Nat) : (g ++ u).drop (g.length + n) = u.drop n := by
  rw [← List.drop_drop, List.drop_left]

theorem byteAt_append_right (g u : List Byte) (i : Nat) : byteAt (g ++ u) (g.length + i) = byteAt u i := by
  rw [← byteAt_drop, List.drop_left]

theorem slice_append_right (g u : List Byte) (i j : Nat) :
    slice (g ++ u) (g.length + i) (g.length + j) = slice u i j := by
  rw [← slice_drop, List.drop_left]

theorem hdrOk_append_right (ck : CkChoice) (g u : List Byte) (off : Nat) :
    hdrOk ck (g ++ u) (g.length + off) = hdrOk ck u off := by
  rw [← hdrOk_drop, drop_length_add_append, hdrOk_drop]

theorem declaredLen_append_right (g u : List Byte) (off : Nat) :
    declaredLen (g ++ u) (g.length + off) = declaredLen u off := by
  rw [← declaredLen_drop, drop_length_add_append, declaredLen_drop]

theorem pktOk_append_right (ck : CkChoice) (g u : List Byte) (off : Nat) {len : Nat} (hlen : 2 ≤ len) :
    pktOk ck (g ++ u) (g.length + off) len = pktOk ck u off len := by
  rw [← pktOk_drop ck _ _ hlen, drop_length_add_append, pktOk_drop ck _ _ hlen]

section Garbage

variable {ck : CkChoice} {g u : List Byte} {off : Nat}

theorem firstMarkerAt_append_right (hg : ∀ b ∈ g, b ≠ marker) (h : firstMarkerAt u off) :
    firstMarkerAt (g ++ u) (g.length + off) := by
  obtain ⟨hoff, hmark, hfirst⟩ := h
  refine ⟨by simpa using hoff, (byteAt_append_right g u off).trans hmark, fun i hi => ?_⟩
  rcases lt_or_ge i g.length with hlt | hge
  · rw [byteAt_append_left hlt]
    exact hg _ (byteAt_mem hlt)
  · obtain ⟨j, rfl⟩ := Nat.exists_eq_add_of_le hge
    rw [byteAt_append_right]
    exact hfirst j (by omega)

theorem holdsFrame_append_right (hg : ∀ b ∈ g, b ≠ marker) {len : Nat} (h : holdsFrame u off len) :
    holdsFrame (g ++ u) (g.length + off) len := by
  obtain ⟨hmark, hlen, hmin, hmax, hfits⟩ := h
  exact ⟨firstMarkerAt_append_right hg hmark, (declaredLen_append_right g u off).trans hlen, hmin, hmax,
    by rw [List.length_append]; omega⟩

theorem isOutcome_advance (hg : ∀ b ∈ g, b ≠ marker) {r : Scan} (h : r.IsOutcome ck u) :
    (r.advance g.length).IsOutcome ck (g ++ u) := by
  have hleft : ∀ off, (g ++ u).length - (g.length + off) = u.length - off := fun off => by
    rw [List.length_append, Nat.add_sub_add_left]
  cases r with
  | noSof => exact fun b hb => (List.mem_append.mp hb).elim (hg b) (h b)
  | needMore missing off =>
    obtain ⟨hmark, hmissing⟩ := h
    refine ⟨firstMarkerAt_append_right hg hmark, ?_⟩
    rwa [hleft, hdrOk_append_right, declaredLen_append_right]
  | badHcrc consumed =>
    obtain ⟨off, hmark, hprobe, hhdr, rfl⟩ := h
    exact ⟨g.length + off, firstMarkerAt_append_right hg hmark, hprobe.trans_eq (hleft off).symm,
      (hdrOk_append_right ck g u off).trans hhdr, (Nat.add_assoc ..).symm⟩
  | badPcrc consumed =>
    obtain ⟨off, hmark, hprobe, hhdr, hcause, rfl⟩ := h
    refine ⟨g.length + off, firstMarkerAt_append_right hg hmark, hprobe.trans_eq (hleft off).symm,
      (hdrOk_append_right ck g u off).trans hhdr, ?_, (Nat.add_assoc ..).symm⟩
    rcases hcause with hsmall | ⟨len, hframe, hpkt⟩
    · exact .inl ((declaredLen_append_right g u off).trans_lt hsmall)
    · have ⟨_, _, hmin, _⟩ := hframe
      exact .inr ⟨len, holdsFrame_append_right hg hframe, (pktOk_append_right ck g u off (by omega)).trans hpkt⟩
  | ok len consumed =>
    obtain ⟨off, hframe, hhdr, hpkt, rfl⟩ := h
    have ⟨_, _, hmin, _⟩ := hframe
    exact ⟨g.length + off, holdsFrame_append_right hg hframe, (hdrOk_append_right ck g u off).trans hhdr,
      (pktOk_append_right ck g u off (by omega)).trans hpkt, (Nat.add_assoc ..).symm⟩

theorem scanCore_append_right (ck : CkChoice) (hg : ∀ b ∈ g, b ≠ marker) (u : List Byte) :
    scanCore ck (g ++ u) = (scanCore ck u).advance g.length :=
  scanCore_eq_of_isOutcome (isOutcome_advance hg (scanCore_isOutcome ck u))

end Garbage

/-! Two loops that differ in their traces at most (R240 speaks of frames and of the channel's state). -/

/-- Running the loop over `t` delivers the frames `frames` and then what it delivers over `u`, and leaves the channel
as over `u`. -/
def DrainsAs (ck : CkChoice) (c : Nat) (t : List Byte) (frames : List Frame) (u : List Byte) : Prop :=
  (drain ck c t).frames = frames ++ (drain ck c u).frames ∧ (drain ck c t).chan = (drain ck c u).chan

theorem DrainsAs.of_ok {ck : CkChoice} {c : Nat} {t u : List Byte} {frames : List Frame} {len consumed : Nat}
    (hs : scanCore ck t = .ok len consumed) (h : DrainsAs ck c (t.drop consumed) frames u) :
    DrainsAs ck c t (frameOf c t len consumed :: frames) u := by
  obtain ⟨hframes, hchan⟩ := h
  rw [DrainsAs, drain_of_ok hs]
  exact ⟨congrArg (frameOf c t len consumed :: ·) hframes, hchan⟩

theorem DrainsAs.of_resyncs {ck : CkChoice} {c : Nat} {t u : List Byte} {frames : List Frame} {consumed : Nat}
    (hs : Resyncs ck t consumed) (h : DrainsAs ck c (t.drop consumed) frames u) : DrainsAs ck c t frames u := by
  rw [DrainsAs, drain_of_resyncs hs]
  exact h

section Append

variable {ck : CkChoice}

theorem resyncs_append_right {g u : List Byte} (hg : ∀ b ∈ g, b ≠ marker) {consumed : Nat}
    (h : Resyncs ck u consumed) : Resyncs ck (g ++ u) (g.length + consumed) :=
  h.imp (fun hs => (scanCore_append_right ck hg u).trans (congrArg _ hs))
    fun hs => (scanCore_append_right ck hg u).trans (congrArg _ hs)

theorem resyncs_append_left {t : List Byte} {consumed : Nat} (h : Resyncs ck t consumed) (u : List Byte) :
    Resyncs ck (t ++ u) consumed := by
  obtain ⟨-, hhcrc, hpcrc, -⟩ := scanPrefixStability ck t u
  exact h.imp (hhcrc consumed) (hpcrc consumed)

theorem frameOf_append_right (c : Nat) (g u : List Byte) {len consumed : Nat} (h : len ≤ consumed) :
    frameOf c (g ++ u) len (g.length + consumed) = frameOf c u len consumed := by
  rw [frameOf, frameOf, Nat.add_sub_assoc h, slice_append_right]

theorem frameOf_append_left (c : Nat) {t : List Byte} (u : List Byte) {len consumed : Nat} (h : consumed ≤ t.length) :
    frameOf c (t ++ u) len consumed = frameOf c t len consumed := by
  rw [frameOf, frameOf, slice_append_left h]

/-- The loop drops bytes in front of the first marker without delivering anything. -/
theorem drainsAs_append_right (c : Nat) {g : List Byte} (hg : ∀ b ∈ g, b ≠ marker) (u : List Byte) :
    DrainsAs ck c (g ++ u) [] u := by
  have hscan := scanCore_append_right ck hg u
  cases hs : scanCore ck u with
  | ok len consumed =>
    obtain ⟨-, -, hle, -⟩ := bounds_of_scanCore_ok hs
    rw [hs] at hscan
    rw [DrainsAs, drain_of_ok hscan, drain_of_ok hs, drop_length_add_append, frameOf_append_right c g u hle]
    exact ⟨rfl, rfl⟩
  | noSof =>
    rw [hs] at hscan
    rw [DrainsAs, drain_of_noSof hscan, drain_of_noSof hs]
    exact ⟨rfl, rfl⟩
  | needMore missing consumed =>
    rw [hs] at hscan
    rw [DrainsAs, drain_of_needMore hscan, drain_of_needMore hs, drop_length_add_append, List.length_append,
      Nat.add_sub_add_left]
    exact ⟨rfl, rfl⟩
  | badHcrc consumed | badPcrc consumed =>
    have hresync : Resyncs ck u consumed := by simp [Resyncs, hs]
    refine .of_resyncs (resyncs_append_right hg hresync) ?_
    rw [drop_length_add_append, DrainsAs, drain_of_resyncs hresync]
    exact ⟨rfl, rfl⟩

/-- The key fact of R240: when more bytes come, the loop goes on from what it has left in the channel as if it had seen
the whole stream at once. -/
theorem drainsAs_append (c : Nat) (t u : List Byte) :
    DrainsAs ck c (t ++ u) (drain ck c t).frames ((drain ck c t).chan.buf ++ u) := by
  induction t using passes_induction (ck := ck) with
  | ok t len consumed hs ih =>
    obtain ⟨-, -, -, hfits⟩ := bounds_of_scanCore_ok hs
    obtain ⟨hstable, -⟩ := scanPrefixStability ck t u
    rw [drain_of_ok hs, PushResult.traced_frames, PushResult.yielding_frames, ← frameOf_append_left c u hfits]
    refine .of_ok (hstable len consumed hs) ?_
    rw [List.drop_append_of_le_length hfits]
    exact ih
  | resync t consumed hs ih =>
    obtain ⟨-, hlt⟩ := bounds_of_resyncs hs
    rw [drain_of_resyncs hs]
    refine .of_resyncs (resyncs_append_left hs u) ?_
    rw [List.drop_append_of_le_length hlt.le]
    exact ih
  | needMore t missing off hs =>
    obtain ⟨⟨hoff, -, hfirst⟩, -⟩ := scanCore_eq_needMore hs
    have hgarbage : ∀ b ∈ t.take off, b ≠ marker := fun b hb => by
      obtain ⟨i, hi, rfl⟩ := List.mem_take_iff_getElem.mp hb
      rw [← List.getD_eq_getElem t 0]
      exact hfirst i (by omega)
    have hsplit : t ++ u = t.take off ++ (t.drop off ++ u) := by rw [← List.append_assoc, List.take_append_drop]
    rw [drain_of_needMore hs, hsplit]
    exact drainsAs_append_right c hgarbage _
  | noSof t hs =>
    rw [drain_of_noSof hs]
    exact drainsAs_append_right c (scanCore_eq_iff.mp hs) u

end Append

/-! The pushes of a stream, fragment by fragment. -/

section Pushes

variable {ck : CkChoice} {ch : Chan}

/-- The loop over what a settled channel holds leaves the channel as it is. -/
theorem Chan.Settled.drain_buf (h : ch.Settled ck) (c : Nat) :
    (drain ck c ch.buf).chan = ch ∧ (drain ck c ch.buf).frames = [] := by
  obtain ⟨ph, hph⟩ := h
  cases hhint : ch.hint with
  | none =>
    obtain rfl := Chan.inPhase_of_hint_none hph hhint
    exact ⟨rfl, rfl⟩
  | some hint => exact drain_of_inPhase c hph hhint

/-- Whether the gate stops it or not, a push gives the loop's channel and frames (R239). -/
theorem Chan.Settled.pushFragment_eq_drain (h : ch.Settled ck) (c : Nat) (d : List Byte) :
    (pushFragment ck c ch d).chan = (drain ck c (ch.buf ++ d)).chan ∧
      (pushFragment ck c ch d).frames = (drain ck c (ch.buf ++ d)).frames := by
  obtain ⟨ph, hph⟩ := h
  rcases pushFragment_cases ck c ch d with ⟨⟨hint, hhint, hlt⟩, -⟩ | ⟨-, hopen⟩
  · obtain ⟨-, hsame⟩ := hintGateChangesOnlyTheTrace ck c ch ph d hint hph hhint hlt
    exact hsame
  · rw [hopen]
    exact ⟨rfl, rfl⟩

theorem drain_settled (ck : CkChoice) (c : Nat) (buf : List Byte) : (drain ck c buf).chan.Settled ck :=
  drainLoop_settled ck c (Nat.lt_succ_self _)

/-- Under legal parameters a push of at most FRAG_MAX bytes onto a settled channel answers the loop's frames and leaves
the loop's channel. -/
theorem exec_pushOf {s : State} {c : Nat} {d : List Byte} (hlegal : s.params.legal)
    (hsettled : (s.getChan c).Settled s.params.ck) (hd : d.length ≤ s.params.fragMax) :
    ∃ t trace, exec (pushOf c d) s = .next t ∧ t.params = s.params ∧
      t.getChan c = (drain s.params.ck c ((s.getChan c).buf ++ d)).chan ∧
      t.response = some
        { status := .ok, payload := .push (drain s.params.ck c ((s.getChan c).buf ++ d)).frames trace } := by
  have ⟨_, _, hmax, _⟩ := hlegal
  have hk : (BitVec.ofNat 16 d.length).toNat = d.length := Nat.mod_eq_of_lt (by omega)
  have hfrag := hk.trans_le hd
  obtain ⟨hbuf, -⟩ := hsettled.bounds
  obtain ⟨hchan, hframes⟩ := hsettled.pushFragment_eq_drain c d
  refine ⟨_, (pushFragment s.params.ck c (s.getChan c) d).trace,
    exec_raPush_of_le hfrag (fits_accCap_of_legal hlegal hbuf hfrag) d, rfl, ?_, ?_⟩
  all_goals rw [fragment_eq d _ hk.symm]
  · rw [getChan_setChan_reply_self, hchan]
  · rw [State.reply_response, hframes]

/-- Pushes onto a settled channel deliver what one loop over its buffer and the joined fragments delivers. -/
theorem runPushes_of_settled {c : Nat} {ds : List (List Byte)} {s : State} (hlegal : s.params.legal)
    (hsettled : (s.getChan c).Settled s.params.ck) (hds : ∀ d ∈ ds, d.length ≤ s.params.fragMax) :
    ∃ r, runPushes c ds s = some r ∧ r.frames = (drain s.params.ck c ((s.getChan c).buf ++ ds.flatten)).frames ∧
      r.state.getChan c = (drain s.params.ck c ((s.getChan c).buf ++ ds.flatten)).chan := by
  induction ds generalizing s with
  | nil =>
    obtain ⟨hchan, hframes⟩ := hsettled.drain_buf c
    rw [List.flatten_nil, List.append_nil, hchan, hframes]
    exact ⟨_, rfl, rfl, rfl⟩
  | cons d ds ih =>
    obtain ⟨hd, hds⟩ := List.forall_mem_cons.mp hds
    obtain ⟨t, trace, hexec, hparams, htchan, hresponse⟩ := exec_pushOf hlegal hsettled hd
    have htsettled : (t.getChan c).Settled t.params.ck := by
      rw [htchan, hparams]
      exact drain_settled ..
    obtain ⟨r, hrun, hframes, hchan⟩ := ih (hparams ▸ hlegal) htsettled (hparams ▸ hds)
    rw [hparams, htchan] at hframes hchan
    obtain ⟨hjoin, hend⟩ := drainsAs_append (ck := s.params.ck) c ((s.getChan c).buf ++ d) ds.flatten
    rw [List.flatten_cons, ← List.append_assoc, hjoin, hend]
    exact ⟨_, runPushes_cons.mpr ⟨t, _, trace, r, hexec, hresponse, hrun, rfl⟩, congrArg _ hframes, hchan⟩

end Pushes

/-- Settles O52: an IDLE channel is settled and holds no bytes. -/
theorem chunkingDoesNotChangeFrames : Obligations.ChunkingDoesNotChangeFrames := by
  intro s c ds hlegal hidle hds
  have hsettled : (s.getChan c).Settled s.params.ck := by
    rw [hidle]
    exact Chan.idle_settled _
  have hrun := runPushes_of_settled hlegal hsettled hds
  rwa [hidle] at hrun

end Sys2Proof.Machine
end

section
/-! The push state machine (42_reassembler R245): a lemma for each row that tests
something, and the run from CHECK to its end. -/

namespace Sys2Proof.Machine

section PushMachine

variable {p : Params} {c k : Nat} {d : List Byte} {ch : Chan} {m m' m'' : PushMachine} {frames : List Frame}
  {trace : List ScanRecord}

/-- The machine comes from `m` to `m'` in some number of actions. -/
def Reaches (p : Params) (c k : Nat) (d : List Byte) (m m' : PushMachine) : Prop :=
  ∃ n, (pushMachineStep p c k d)^[n] m = m'

theorem Reaches.refl (m : PushMachine) : Reaches p c k d m m := ⟨0, rfl⟩

theorem Reaches.head (hstep : pushMachineStep p c k d m = m') (h : Reaches p c k d m' m'') :
    Reaches p c k d m m'' := by
  obtain ⟨n, hn⟩ := h
  exact ⟨n + 1, by rw [Function.iterate_succ_apply, hstep, hn]⟩

/-! The two rows in front of APPEND (R222, R223). -/

theorem pushMachineStep_check_errFrag (hfrag : p.fragMax < k) : pushMachineStep p c k d (pushStart ch) =
    { stage := .doneFault .errFrag, chan := ch, frames := [], trace := [] } := if_pos hfrag

theorem pushMachineStep_check_errOverflow (hfrag : k ≤ p.fragMax) (hcap : p.accCap < ch.buf.length + k) :
    pushMachineStep p c k d (pushStart ch) =
      { stage := .doneFault .errOverflow, chan := ch, frames := [], trace := [] } :=
  (if_neg hfrag.not_gt).trans (if_pos hcap)

theorem pushMachineStep_check (hfrag : k ≤ p.fragMax) (hcap : ch.buf.length + k ≤ p.accCap) :
    pushMachineStep p c k d (pushStart ch) = { stage := .append, chan := ch, frames := [], trace := [] } :=
  (if_neg hfrag.not_gt).trans (if_neg hcap.not_gt)

/-! The rows GATE and SCAN, by what they test. -/

theorem pushMachineStep_gate_shut (h : gateShut ch.hint ch.buf = true) :
    pushMachineStep p c k d { stage := .gate, chan := ch, frames := frames, trace := trace } =
      { stage := .done, chan := ch, frames := frames, trace := trace } := if_pos h

theorem pushMachineStep_gate_open (h : ¬ gateShut ch.hint ch.buf = true) :
    pushMachineStep p c k d { stage := .gate, chan := ch, frames := frames, trace := trace } =
      { stage := .scan, chan := ch, frames := frames, trace := trace } := if_neg h

theorem pushMachineStep_scan {o : Scan} (hs : scanCore p.ck ch.buf = o) :
    pushMachineStep p c k d { stage := .scan, chan := ch, frames := frames, trace := trace } =
      { stage := afterScan o, chan := { buf := ch.buf, hint := none }, frames := frames,
        trace := trace ++ [o.record] } := by
  subst hs
  rfl

/-- From SCAN the machine runs the loop over the buffer; its lists go behind those it has. -/
theorem reaches_drain (buf : List Byte) (hint : Option Nat) (frames : List Frame) (trace : List ScanRecord) :
    Reaches p c k d { stage := .scan, chan := { buf := buf, hint := hint }, frames := frames, trace := trace }
      { stage := .done, chan := (drain p.ck c buf).chan, frames := frames ++ (drain p.ck c buf).frames,
        trace := trace ++ (drain p.ck c buf).trace } := by
  induction buf using passes_induction (ck := p.ck) generalizing hint frames trace with
  | ok buf len consumed hs ih =>
    have hrest := ih none (frames ++ [frameOf c buf len consumed]) (trace ++ [(Scan.ok len consumed).record])
    rw [List.append_assoc, List.append_assoc] at hrest
    rw [drain_of_ok hs]
    exact .head (pushMachineStep_scan hs) (.head rfl hrest)
  | resync buf consumed hs ih =>
    have hrest := ih none frames (trace ++ [(scanCore p.ck buf).record])
    have hstage : afterScan (scanCore p.ck buf) = .resync consumed := by
      rcases hs with hs | hs
      all_goals
        rw [hs]
        rfl
    rw [List.append_assoc] at hrest
    rw [drain_of_resyncs hs]
    refine .head (pushMachineStep_scan rfl) (.head ?_ hrest)
    rw [hstage]
    rfl
  | needMore buf missing consumed hs =>
    rw [drain_of_needMore hs, List.append_nil, ← List.length_drop]
    exact .head (pushMachineStep_scan hs) (.head rfl (.refl _))
  | noSof buf hs =>
    rw [drain_of_noSof hs, List.append_nil]
    exact .head (pushMachineStep_scan hs) (.head rfl (.refl _))

/-- From GATE the machine does what is left of the push. -/
theorem reaches_pushFragment (ch : Chan) (e : List Byte) :
    Reaches p c k d { stage := .gate, chan := { buf := ch.buf ++ e, hint := ch.hint }, frames := [], trace := [] }
      { stage := .done, chan := (pushFragment p.ck c ch e).chan, frames := (pushFragment p.ck c ch e).frames,
        trace := (pushFragment p.ck c ch e).trace } := by
  unfold pushFragment
  split
  · next hshut => exact .head (pushMachineStep_gate_shut hshut) (.refl _)
  · next hopen => exact .head (pushMachineStep_gate_open hopen) (reaches_drain (ch.buf ++ e) ch.hint [] [])

end PushMachine

/-- Settles O54: CHECK faults, or leads over APPEND to GATE. -/
theorem pushMachineRefinesPush : Obligations.PushMachineRefinesPush := by
  intro p c k data ch
  refine ⟨fun hfrag hcap => ?_, pushMachineStep_check_errFrag, pushMachineStep_check_errOverflow⟩
  exact Reaches.head (pushMachineStep_check hfrag hcap) (.head rfl (reaches_pushFragment ch (fragment data k)))

end Sys2Proof.Machine
end

section
/-! What an operation answers when a check in front of it fails (60_exceptions R273, R274), check by check, for the
field accesses and for FC.FINH, FC.FINP, FC.PAYLOAD, FC.VALID and SCAN. -/

namespace Sys2Proof.Machine

variable {s t : State} {v n : Half} {base : Nat}

theorem onValue_of_le {w : Nat} (hv : 2 ^ w ≤ v.toNat) (body : Out) :
    onValue s v w body = .next (s.raise .errValue) :=
  if_neg (by simpa [valueFits] using hv)

theorem onLegalView_of_lt (hillegal : 2 ^ s.params.addrW < base + n.toNat) (body : Out) :
    onLegalView s base n body = .next (s.raise .errRange) :=
  if_neg (by simpa [viewLegal] using hillegal)

/-- Behind the view-legality check alone, only an illegal view gives ERR_RANGE. -/
theorem lt_of_onLegalView_errRange {u : State} {p q : Payload}
    (h : onLegalView s base n (.next (u.reply q)) = .next t)
    (ht : t.response = some { status := .errRange, payload := p }) : 2 ^ s.params.addrW < base + n.toNat := by
  rcases onLegalView_next h with ⟨-, ⟨⟩⟩ | ⟨hillegal, -⟩
  · simp at ht
  · exact hillegal

namespace Field

variable {f : Field}

/-- The two ways a view can miss a field, and a third for PCRC (60_exceptions R274). -/
theorem not_inView_iff : ¬ f.InView s base n ↔ 2 ^ s.params.addrW < base + n.toNat ∨ n.toNat < f.need ∨
    (f = .pcrc ∧ (s.viewLen base < 13 ∨ n.toNat < s.viewLen base)) := by
  have hiff : f.InView s base n ↔ base + n.toNat ≤ 2 ^ s.params.addrW ∧ f.need ≤ n.toNat ∧
      (f = .pcrc → 13 ≤ s.viewLen base ∧ s.viewLen base ≤ n.toNat) :=
    ⟨fun ⟨hlegal, hneed, hpcrc⟩ => ⟨hlegal, hneed, hpcrc⟩, fun ⟨hlegal, hneed, hpcrc⟩ => ⟨hlegal, hneed, hpcrc⟩⟩
  simp only [hiff, not_and_or, Classical.not_imp, not_le]

/-- The width check of an FC.WR comes before the checks of its view; no value is too wide for a 16-bit field. -/
theorem exec_wr_of_width_le (hv : 2 ^ f.width ≤ v.toNat) (base : Nat) (n : Half) (s : State) :
    exec (f.wr v base n) s = .next (s.raise .errValue) := by
  cases f with
  | seq | pcrc => exact absurd v.isLt (Nat.not_lt.mpr hv)
  | _ => exact onValue_of_le hv _

theorem exec_wr_of_not_inView (hv : v.toNat < 2 ^ f.width) (h : ¬ f.InView s base n) :
    exec (f.wr v base n) s = .next (s.raise .errRange) := by
  cases f with
  | pcrc =>
    simp only [wr, exec, execFcWrPcrc]
    exact onFrame_of_not (fun ⟨hlegal, hneed, hframe⟩ => h ⟨hlegal, hneed, fun _ => hframe⟩) _
  | seq => exact onView_of_not (fun ⟨hlegal, hneed⟩ => h ⟨hlegal, hneed, nofun⟩) _
  | _ => exact (onValue_of_lt hv _).trans (onView_of_not (fun ⟨hlegal, hneed⟩ => h ⟨hlegal, hneed, nofun⟩) _)

end Field

/-- Settles O15: a condition that fails puts the field outside the view, or stops the operation at `onView`, `onFrame`
or `onLegalView`; behind the last of these FC.VALID and SCAN always answer OK. -/
theorem rangeFaults : Obligations.RangeFaults := by
  intro s base n
  refine ⟨?field, ?finh, ?finpPayload, ?validScan, ?onlyIllegal⟩
  case field =>
    intro f hmiss
    have hview := Field.not_inView_iff.mpr hmiss
    exact ⟨Field.exec_rd_of_not_inView hview, fun _ hv => Field.exec_wr_of_not_inView hv hview⟩
  case finh => exact fun hmiss => onView_of_not (by omega) _
  case finpPayload =>
    intro hmiss
    simp only [exec, execFcFinp, execFcPayload]
    exact ⟨onFrame_of_not (by omega) _, onFrame_of_not (by omega) _⟩
  case validScan => exact fun hillegal => ⟨onLegalView_of_lt hillegal _, onLegalView_of_lt hillegal _⟩
  case onlyIllegal =>
    rintro t p (hexec | hexec) ht
    all_goals exact lt_of_onLegalView_errRange hexec ht

/-- Settles O16: a value that is too wide raises ERR_VALUE; one that fits is stored, or its view raises ERR_RANGE. -/
theorem valueFaultExactlyWhenTooWide : Obligations.ValueFaultExactlyWhenTooWide := by
  intro f v base n s t hexec
  have hwide : 2 ^ f.width ≤ v.toNat → t = s.raise .errValue := fun hv => by
    cases (Field.exec_wr_of_width_le hv base n s).symm.trans hexec
    rfl
  have hfits : v.toNat < 2 ^ f.width → ∀ p, t.response ≠ some { status := .errValue, payload := p } := fun hv p => by
    by_cases hview : f.InView s base n
    · cases (Field.exec_wr_of_inView hv hview).symm.trans hexec
      simp
    · cases (Field.exec_wr_of_not_inView hv hview).symm.trans hexec
      simp
  refine ⟨⟨fun ⟨p, hp⟩ => ?_, fun hv => ⟨.empty, by rw [hwide hv, State.raise_response]⟩⟩, hwide, ?_⟩
  · by_contra hv
    exact hfits (Nat.lt_of_not_le hv) p hp
  · rintro (rfl | rfl)
    all_goals exact hfits v.isLt

/-- Settles O17: the step decodes first (R106), and `exec` makes the checks in the order of R277. -/
theorem faultPriority : Obligations.FaultPriority := by
  intro s r hnext
  obtain ⟨hdecoded, -⟩ := stepPerformsDecodedRequest s r hnext
  obtain ⟨hreserved, -⟩ := reservedWordsAnswerErrOp s r hnext
  refine ⟨hreserved, fun f v base n hdec => ?write, fun c k data hdec => ?push⟩
  case write =>
    rw [hdecoded _ hdec]
    refine ⟨fun hv => Field.exec_wr_of_width_le hv _ _ _, fun hv hmiss => ?_⟩
    exact Field.exec_wr_of_not_inView hv (Field.not_inView_iff.mpr (hmiss.imp_right .inl))
  case push =>
    rw [hdecoded _ hdec]
    exact ⟨fun hfrag => exec_raPush_of_fragMax_lt (s := s.takeRequest) hfrag data,
      fun hfrag hcap => exec_raPush_of_accCap_lt (s := s.takeRequest) hfrag hcap data⟩

end Sys2Proof.Machine
end

section
/-! A fault changes nothing (60_exceptions R271): an operation answers OK, or raises a status from the state it started
in. -/

namespace Sys2Proof.Machine

/-- If the outcome on `s` is a next state, that state answers OK or is `s` with a status raised. -/
def AnswersOkOrRaises (s : State) (o : Out) : Prop :=
  ∀ t, o = .next t → (∃ p, t.response = some { status := .ok, payload := p }) ∨ ∃ e, t = s.raise e

namespace AnswersOkOrRaises

variable {s : State}

/-! The endings of an operation. -/

theorem of_reply (t : State) (p : Payload) : AnswersOkOrRaises s (.next (t.reply p)) := by
  rintro _ ⟨⟩
  exact .inl ⟨p, rfl⟩

theorem of_raise (e : Status) : AnswersOkOrRaises s (.next (s.raise e)) := by
  rintro _ ⟨⟩
  exact .inr ⟨e, rfl⟩

/-! The checks in front of an operation: a failed check raises from the state it is made in. -/

theorem onValue {v : Half} {w : Nat} {body : Out} (hb : AnswersOkOrRaises s body) :
    AnswersOkOrRaises s (onValue s v w body) := by
  intro t ht
  rcases onValue_next ht with ⟨-, hbody⟩ | ⟨-, rfl⟩
  · exact hb t hbody
  · exact .inr ⟨_, rfl⟩

theorem onLegalView {base : Nat} {n : Half} {body : Out} (hb : AnswersOkOrRaises s body) :
    AnswersOkOrRaises s (onLegalView s base n body) := by
  intro t ht
  rcases onLegalView_next ht with ⟨-, hbody⟩ | ⟨-, rfl⟩
  · exact hb t hbody
  · exact .inr ⟨_, rfl⟩

theorem onView {base need : Nat} {n : Half} {body : Out} (hb : AnswersOkOrRaises s body) :
    AnswersOkOrRaises s (onView s base n need body) := by
  intro t ht
  rcases onView_next ht with ⟨-, -, hbody⟩ | ⟨-, rfl⟩
  · exact hb t hbody
  · exact .inr ⟨_, rfl⟩

theorem onFrame {base : Nat} {n : Half} {body : Nat → Out} (hb : ∀ len, AnswersOkOrRaises s (body len)) :
    AnswersOkOrRaises s (onFrame s base n body) := by
  intro t ht
  rcases onFrame_next ht with ⟨-, -, -, -, hbody⟩ | ⟨-, rfl⟩
  · exact hb _ t hbody
  · exact .inr ⟨_, rfl⟩

/-- What answers a status other than OK has raised it, so the payload is empty and the rest is as before. -/
theorem eq_answer {o : Out} (h : AnswersOkOrRaises s o) {t : State} {e : Status} {p : Payload} (ho : o = .next t)
    (ht : t.response = some { status := e, payload := p }) (he : e ≠ .ok) :
    p = .empty ∧ t = s.answer e .empty := by
  rcases h t ho with ⟨q, hok⟩ | ⟨e', rfl⟩
  · cases hok.symm.trans ht
    exact absurd rfl he
  · cases ht
    exact ⟨rfl, rfl⟩

end AnswersOkOrRaises

/-- Every operation makes its checks before it changes anything, and answers OK behind them. -/
theorem exec_answersOkOrRaises (i : Instr) (s : State) : AnswersOkOrRaises s (exec i s) := by
  cases i with
  | fcRdSof | fcRdLen | fcRdHcrc | fcRdSender | fcRdReceiver | fcRdSeq | fcRdFlags | fcRdIsAck | fcRdNeedAck | fcRdEnc
  | fcRdCmdset | fcRdCmdid | fcWrSeq | fcFinh => exact .onView (.of_reply _ _)
  | fcWrSof | fcWrLen | fcWrHcrc | fcWrSender | fcWrReceiver | fcWrFlags | fcWrIsAck | fcWrNeedAck | fcWrEnc
  | fcWrCmdset | fcWrCmdid => exact .onValue (.onView (.of_reply _ _))
  | fcRdPcrc | fcWrPcrc | fcFinp | fcPayload =>
    simp only [exec, execFcRdPcrc, execFcWrPcrc, execFcFinp, execFcPayload]
    exact .onFrame fun _ => .of_reply _ _
  | fcValid | scan => exact .onLegalView (.of_reply _ _)
  | raPush c k data =>
    intro t ht
    rcases exec_raPush_next ht with ⟨e, rfl⟩ | ⟨p, rfl⟩
    · exact .inr ⟨e, rfl⟩
    · exact .inl ⟨p, rfl⟩
  | raFlush | raStatus | blkReset => exact .of_reply _ _

theorem perform_answersOkOrRaises (r : Request) (s : State) : AnswersOkOrRaises s (perform r s) := by
  rcases perform_cases r s with ⟨i, -, hp⟩ | ⟨e, -, hp⟩
  · exact hp ▸ exec_answersOkOrRaises i s
  · exact hp ▸ .of_raise .errOp

/-- Settles O18: an operation, and an illegal word, answers OK or raises; the step performs the request on the state
with the port taken. -/
theorem faultsChangeNothing : Obligations.FaultsChangeNothing := by
  refine ⟨fun i s t e p hexec => (exec_answersOkOrRaises i s).eq_answer hexec, fun s t r e p hnext hstep => ?_⟩
  exact (perform_answersOkOrRaises r s.takeRequest).eq_answer ((step_of_performsNext hnext).symm.trans hstep)

end Sys2Proof.Machine
end

section
/-! Reset, from inside the block (BLK.RESET, 42_reassembler R235, 70_reset R302) and from outside it (the reset event,
70_reset R300): both clear the channel table. -/

namespace Sys2Proof.Machine

theorem exec_blkReset (s : State) : exec .blkReset s = .next (s.clearChans.reply .empty) := rfl

/-- BLK.RESET differs from the reset event in the two ports only: it does not touch the request port, and it answers. -/
theorem clearChans_reply_eq_onResetEvent (s : State) (p : Payload) :
    s.clearChans.reply p =
      { s.onResetEvent with request := s.request, response := some { status := .ok, payload := p } } := rfl

theorem exec_raStatus_of_idle {s : State} {c : Nat} (hidle : s.getChan c = Chan.idle) :
    exec (.raStatus c) s = .next (s.answer .ok (.status 0 false 0)) := by
  rw [exec_raStatus, hidle]
  rfl

/-- Settles O44: clearing the channels is all the reset event does beside the ports, and an idle channel reports no
bytes and no hint. -/
theorem blkResetMakesEveryChannelIdle : Obligations.BlkResetMakesEveryChannelIdle := by
  intro s
  have hidle (c : Nat) : (s.clearChans.reply .empty).getChan c = Chan.idle := by
    rw [State.getChan_reply, State.getChan_clearChans]
  exact ⟨_, exec_blkReset s, clearChans_reply_eq_onResetEvent s .empty, hidle, fun c => exec_raStatus_of_idle (hidle c)⟩

theorem resetAsserted_of_host_resetEvent {s : State} {rest : List HostAct} (h : s.host = .resetEvent :: rest) :
    s.resetAsserted = true := by
  simp [State.resetAsserted, h]

theorem hostTurn_resetEvent {s : State} {rest : List HostAct} (h : s.host = .resetEvent :: rest) :
    s.hostTurn = .next { s.onResetEvent with host := rest } := by
  simp [State.hostTurn, h]

/-- An asserted reset event comes before a request in flight (70_reset R300; log 6). -/
theorem step_of_resetAsserted {s : State} (h : s.resetAsserted = true) : step s = s.hostTurn := by
  simp [step, h]

theorem step_of_host_resetEvent {s : State} {rest : List HostAct} (h : s.host = .resetEvent :: rest) :
    step s = .next { s.onResetEvent with host := rest } :=
  (step_of_resetAsserted (resetAsserted_of_host_resetEvent h)).trans (hostTurn_resetEvent h)

/-- Settles O45: the step is the reset event, which clears the channels and both ports. -/
theorem resetEventDropsRequest : Obligations.ResetEventDropsRequest := by
  intro s rest hhost
  exact ⟨_, step_of_host_resetEvent hhost, State.getChan_clearChans s, State.onResetEvent_response s,
    State.onResetEvent_request s, State.onResetEvent_mem s, State.onResetEvent_params s, rfl⟩

end Sys2Proof.Machine
end
